-- ==== Sys2Proof/Word.lean ====
section
/-! DEFINITION. The word types of Petajon: register width 64 (00_scope.md R5, 10_state.md R20),
32-bit virtual addresses (R5 `VA_BITS`), 44-bit linear addresses (R5 `LA_BITS`), 32-bit instructions (R120). -/

namespace Sys2Proof

/-- A value of an integer register, the program counter or a CSR: `XLEN` = 64 bits (R20, R33). -/
abbrev Word := BitVec 64

/-- The smallest addressable unit of memory (R70). -/
abbrev Byte := BitVec 8

/-- A 32-bit value: an instruction word (R120), a single-precision pattern (R250), a segment register (R53). -/
abbrev Tetra := BitVec 32

/-- A five-bit register index (R140). -/
abbrev Reg := BitVec 5

/-- A virtual (effective) address: `VA_BITS` = 32 (R71, R72). -/
abbrev VAddr := BitVec 32

/-- A linear or physical address: `LA_BITS` = 44 (R88). -/
abbrev LAddr := BitVec 44

end Sys2Proof
end

