-- ==== Sys2Proof/Config.lean ====
section
/-! DEFINITION. What the spec leaves to the configuration: constants and functions without a body, about which
nothing can be proved beyond what the operations that use them enforce (00_scope.md R12, R253;
93_implementation_defined.md section 3). The choices the spec gives a default for are in Machine/Parameters.lean. -/

namespace Sys2Proof

/-- The two operating modes (10_state.md R36, 60_exceptions.md R395). -/
inductive Mode where
  | user
  | machine
  deriving DecidableEq, Repr, Inhabited

/-- The kinds of memory access (20_memory.md R95). -/
inductive Access where
  | load
  | store
  | fetch
  deriving DecidableEq, Repr

/-- What a trap is taken for (60_exceptions.md R370, R385): an environment call, a breakpoint, an interrupt of a source.
Sources are numbered 0 to 63; number 0 names the timer (entry 8). -/
inductive TrapKind where
  | ecall
  | ebreak
  | interrupt (source : Fin 64)
  deriving DecidableEq, Repr, Inhabited

/-- The rounding modes of 43_floating_point.md R251 (PRESUMED there: general knowledge, entry 19). -/
inductive RoundingMode where
  | nearestEven
  | towardZero
  | down
  | up
  | nearestAway
  deriving DecidableEq, Repr, Inhabited

/-- The abstract content of `mstatus` (10_state.md R44): the four fields the source implies and the other 64-bit rest. -/
structure MstatusFields where
  mode     : Mode
  ie       : Bool
  modePrev : Mode
  iePrev   : Bool
  other    : Word
  deriving DecidableEq, Repr, Inhabited

/-- `draw` of 00_scope.md R12: the value of the n-th evaluation, about which nothing is promised (entry 5). -/
opaque Config.draw : Nat → Word

/-- The content after reset of the physical byte at an address: arbitrary, fixed until written
(70_reset_and_hazards.md R421, entry 2). -/
opaque Config.initialByte : Nat → Byte

/-- How many bytes the platform's ROM holds from `ROM_BASE` upward (20_memory.md R80, 70_reset_and_hazards.md R422: the size is
the platform's; entry 3). What they hold is `initialByte`. -/
opaque Config.romSize : Nat

/-- `MCPUID`, CPU description (10_state.md R43). -/
opaque Config.mcpuid : Word

/-- `MIMPID`, vendor ID and version number (10_state.md R43). -/
opaque Config.mimpid : Word

/-- `MHARTID`, hardware thread id (10_state.md R43). -/
opaque Config.mhartid : Word

/-- `cfg.mstatus_pack` (10_state.md R44): the 64-bit image a CSR read of `mstatus` returns. -/
opaque Config.mstatusPack : MstatusFields → Word

/-- `cfg.mstatus_unpack` (10_state.md R44): the fields a CSR write of `mstatus` names, before the mode is held to R395. -/
opaque Config.mstatusUnpack : Word → MstatusFields

/-- `cfg.mie_layout` (10_state.md R46) before it is held to what the spec asks of it: the bit of `mie` and `mip` that belongs to a
source; a value of 64 or more says that the machine has no such source. -/
opaque Config.mieBit : Fin 64 → Nat

/-- `cfg.int_priority` (60_exceptions.md R392) before it is held to the set it chooses from. -/
opaque Config.intPriority : Word → Fin 64

/-- `cfg.CAUSE_CODE` (60_exceptions.md R371) before it is held to be injective on kinds. -/
opaque Config.causeCodeRaw : TrapKind → Mode → Word

/-- `TRAP_TARGET_FROM_MACHINE` (60_exceptions.md R381), supplied as a free address for each kind (entry 10). -/
opaque Config.trapTargetFromMachine : TrapKind → Word

/-- The register set that code 0b11 of the inter-register-set MOV names: 1 or 2 (45_custom.md R331, entry 28). -/
opaque Config.machineSetIsBios : Bool

/-- The result of `cfg.fp_add` (43_floating_point.md R255) before the NaN rule. -/
opaque Config.fpAdd : RoundingMode → Tetra → Tetra → Tetra

/-- Whether FADD's intermediate result had non-zero bits to the right of the result's LSB (R252 `nx`). -/
opaque Config.fpAddInexact : RoundingMode → Tetra → Tetra → Bool

/-- The result of `cfg.fp_sub` (R256) before the NaN rule. -/
opaque Config.fpSub : RoundingMode → Tetra → Tetra → Tetra

/-- Whether FSUB is inexact (R252). -/
opaque Config.fpSubInexact : RoundingMode → Tetra → Tetra → Bool

/-- The result of `cfg.fp_mul` (R257) before the NaN rule. -/
opaque Config.fpMul : RoundingMode → Tetra → Tetra → Tetra

/-- Whether FMUL is inexact (R252). -/
opaque Config.fpMulInexact : RoundingMode → Tetra → Tetra → Bool

/-- The result of `cfg.fp_div` (R258) before the NaN rule. -/
opaque Config.fpDiv : RoundingMode → Tetra → Tetra → Tetra

/-- Whether FDIV is inexact (R252). -/
opaque Config.fpDivInexact : RoundingMode → Tetra → Tetra → Bool

/-- FMIN's result where neither operand is the smaller one: a NaN operand, or two zeros of different sign (R259). -/
opaque Config.fpMin : Tetra → Tetra → Tetra

/-- `cfg.fp_min_flags` (R259): the source lists no flags. -/
opaque Config.fpMinFlags : Tetra → Tetra → BitVec 5

/-- FMAX's result where neither operand is the larger one (R260). -/
opaque Config.fpMax : Tetra → Tetra → Tetra

/-- FMAX's flags (R260: as R259). -/
opaque Config.fpMaxFlags : Tetra → Tetra → BitVec 5

/-- The result of `cfg.fp_sqrt` (R261). -/
opaque Config.fpSqrt : RoundingMode → Tetra → Tetra

/-- The flags of `cfg.fp_sqrt` that R261 does not state. -/
opaque Config.fpSqrtFlags : RoundingMode → Tetra → BitVec 5

/-- The value of `cfg.fcvt_w_s` (R268) before it is held to the mnemonic. -/
opaque Config.fcvtWS : RoundingMode → Tetra → Word

/-- The flags of `cfg.fcvt_w_s` (R268). -/
opaque Config.fcvtWSFlags : RoundingMode → Tetra → BitVec 5

/-- The value of `cfg.fcvt_wu_s` (R269) before it is held to the mnemonic. -/
opaque Config.fcvtWUS : RoundingMode → Tetra → Word

/-- The flags of `cfg.fcvt_wu_s` (R269). -/
opaque Config.fcvtWUSFlags : RoundingMode → Tetra → BitVec 5

/-- The result of `cfg.fcvt_s_w` (R270), a function of all 64 bits of Rs1, before it is held to the mnemonic. -/
opaque Config.fcvtSW : RoundingMode → Word → Tetra

/-- The flags of `cfg.fcvt_s_w` (R270). -/
opaque Config.fcvtSWFlags : RoundingMode → Word → BitVec 5

/-- The result of `cfg.fcvt_s_wu` (R271) before it is held to the mnemonic. -/
opaque Config.fcvtSWU : RoundingMode → Word → Tetra

/-- The flags of `cfg.fcvt_s_wu` (R271). -/
opaque Config.fcvtSWUFlags : RoundingMode → Word → BitVec 5

/-- `cfg.fclass` (R273): the result format is not in the source. -/
opaque Config.fclass : Tetra → Word

end Sys2Proof
end

