-- ==== Sys2Proof/Machine/Bits.lean ====
section
/-! DEFINITION. Bit-field, extension and byte-order helpers (00_scope.md R7, R8; 20_memory.md R73). -/

namespace Sys2Proof.Machine

/-- `{hi, lo}` of 00_scope.md R7 as a value of `k` bits: `hi` above `lo`. -/
def joinBits {n m : Nat} (k : Nat) (hi : BitVec n) (lo : BitVec m) : BitVec k :=
  hi.setWidth k <<< m ||| lo.setWidth k

/-- `sext_64` (R8). -/
def sext64 {n : Nat} (v : BitVec n) : Word := v.signExtend 64

/-- `zext_64` (R8). -/
def zext64 {n : Nat} (v : BitVec n) : Word := v.setWidth 64

/-- The `k`-bit value of bytes, the byte at the lowest address first and lowest (little-endian, 20_memory.md R73, R76). -/
def leValue (k : Nat) : List Byte → BitVec k
  | [] => 0
  | b :: rest => leValue k rest <<< 8 ||| b.setWidth k

/-- Byte `k` of a value: bits `8k+7 : 8k` (R73, R77). -/
def byteOf {n : Nat} (v : BitVec n) (k : Nat) : Byte := v.extractLsb' (8 * k) 8

/-- The low `n` bytes of a value, the one for the lowest address first (R77). -/
def leBytes {w : Nat} (v : BitVec w) (n : Nat) : List Byte := (List.range n).map (byteOf v)

/-- The set of those sources of 0 to 63 for which `p` holds, as a bit for each source. -/
def sourceSet (p : Fin 64 → Bool) : Word :=
  (List.finRange 64).foldl (fun acc s => if p s then acc ||| (1 : Word) <<< s.val else acc) 0

end Sys2Proof.Machine
end

