-- ==== Sys2Proof/Machine/Parameters.lean ====
section
/-! DEFINITION. The parameters the spec gives a value or a default for (00_scope.md R5, 93_implementation_defined.md section 3),
each at its default, but for `ERET_MODE`, which R302 ties to `TRAP_TARGET_FROM_MACHINE` (entry 10). -/

namespace Sys2Proof.Machine

/-- `ROM_BASE`: where the platform's ROM begins (20_memory.md R80). -/
def romBase : Nat := 0xFFFC0000

/-- `MTVEC_VALUE`: what `mtvec` reads (10_state.md R45). -/
def mtvecValue : Word := 0xFFFC0000

/-- `MAP_INDEX_BITS`, 12 by default, 9 for the small geometry: how many bits of a linear address select an entry of a map
(20_memory.md R90, 90_conflicts.md C8, entry 23). -/
abbrev mapIndexBits : Nat := 12

/-- `MAP_ENTRY_BITS`, 9 by default: the width of an entry of a map (10_state.md R54, 90_conflicts.md C8, entry 23). -/
abbrev mapEntryBits : Nat := 9

/-- `EPC_OFFSET_ECALL`, 0 by default (60_exceptions.md R384, entry 11). -/
def epcOffsetEcall : Word := 0

/-- `IFETCH_COHERENT`, false by default (20_memory.md R103, entry 4). -/
def ifetchCoherent : Bool := false

/-- `LW_EXTEND`, sign by default (42_memory_instructions.md R233, entry 21). -/
def extendTetra (v : Tetra) : Word := sext64 v

/-- `TRAP_TARGET_FROM_USER`, `mresume` by default, for every kind of trap (60_exceptions.md R381). -/
def trapTargetFromUser (_kind : TrapKind) (mresume : Word) : Word := mresume

/-- `ERET_MODE` = restore_prev: the mode ERET enters, the saved one (44_machine_mode.md R302, entry 10). -/
def eretMode (saved : Mode) : Mode := saved

/-- `cfg.seg_flag_bits`: the bit of a segment register that grants a kind of access, R = 2, W = 1, X = 0 (10_state.md R53). -/
def rightBit : Access → Nat
  | .load => 2
  | .store => 1
  | .fetch => 0

/-- The number that names the timer among the interrupt sources (60_exceptions.md R391, entry 8). -/
def timerSource : Fin 64 := 0

end Sys2Proof.Machine
end

