-- ==== Sys2Proof/Machine/ResetValues.lean ====
section
/-! DEFINITION. The values State.reset uses. The spec states three (70_reset_and_hazards.md R420) and that a WFI wait ends;
"All other state is undefined", and for all other state the model names one value (DESIGN CHOICE, entry 1). -/

namespace Sys2Proof.Machine

/-- "On reset the processor begins executing instructions at $FFFC0100" (R420; upper bits zero, 10_state.md R60). -/
def resetPc : Word := 0xFFFC0100

/-- "in machine mode" (R420). -/
def resetMode : Mode := .machine

/-- "Interrupts are disabled" (R420). -/
def resetIe : Bool := false

/-- DESIGN CHOICE (entry 1): an integer or floating-point register or a 64-bit CSR the spec gives no reset value for. -/
def resetWord : Word := 0

/-- DESIGN CHOICE (entry 1): `mode_prev`, so that the first ERET enters user mode (10_state.md R60, row `mresume`). -/
def resetModePrev : Mode := .user

/-- DESIGN CHOICE (entry 1): `regset`. -/
def resetRegset : BitVec 16 := 0

/-- DESIGN CHOICE (entry 1): a segment register. -/
def resetSeg : BitVec 32 := 0

/-- DESIGN CHOICE (entry 1): every entry of every map (an entry that `pageMap` does not list). -/
def resetMapEntry : BitVec mapEntryBits := 0

end Sys2Proof.Machine
end

