-- ==== Sys2Proof/Machine/State.lean ====
section
/-! DEFINITION. The state of Petajon as plain data (10_state.md), the reasons a step stops, and the state after reset
(10_state.md R60, 70_reset_and_hazards.md R420). -/

namespace Sys2Proof.Machine

/-- The 32 registers of one register set or of the floating-point file (R20, R30). -/
abbrev RegFile := Vector Word 32

/-- The three integer register sets, numbered 0, 1, 2 (R24). -/
inductive RegSet where
  | set0
  | set1
  | set2
  deriving DecidableEq, Repr

/-- The operand roles an integer register field can have (R25, R27). -/
inductive Role where
  | rd
  | rs1
  | rs2
  | rs3
  deriving DecidableEq, Repr

/-- A window of physical addresses the platform declares to be I/O (20_memory.md R79). -/
structure Region where
  base : Nat
  size : Nat
  deriving DecidableEq, Repr

/-- A recorded write to I/O windows (20_memory.md R79): the bytes one bus cycle puts there, each with its address, the lowest
first (R75). -/
structure IoWrite where
  cells : List Host.Cell
  deriving DecidableEq, Repr

/-- Everything the spec gives the machine (10_state.md), and the fields the model adds for the environment: `devices`,
`ioWrites`, `arrivals`, `draws`. -/
structure State where
  /-- Program counter (R33). -/
  pc           : Word
  /-- Operating mode (R36). -/
  mode         : Mode
  /-- Interrupt enable (R37). -/
  ie           : Bool
  /-- Saved mode (R56). -/
  modePrev     : Mode
  /-- Saved interrupt enable (R37, R56). -/
  iePrev       : Bool
  /-- The rest of `mstatus`, `mprv` among it (R44). -/
  mstatusOther : Word
  /-- Register set 0, for user operations (R24). -/
  xset0        : RegFile
  /-- Register set 1 (R24). -/
  xset1        : RegFile
  /-- Register set 2 (R24). -/
  xset2        : RegFile
  /-- Floating-point registers; a single-precision value is in bits 31..0 (R30, R32). -/
  freg         : RegFile
  /-- CSR 0x790: operand selects in bits 3..0, register-set stack in bits 15..4 (R25, R26). -/
  regset       : BitVec 16
  /-- CSR 0x001, bits nv dz of uf nx from 4 to 0 (R41). -/
  fflags       : BitVec 5
  /-- CSR 0x002, dynamic rounding mode (R41). -/
  frm          : BitVec 3
  /-- Cycle counter (R42). -/
  cycle        : Word
  /-- Wall-clock time, `time` and `mtime` (R42, R47). -/
  time         : Word
  /-- Instructions retired (R42). -/
  instret      : Word
  /-- Wall-clock time compare (R47). -/
  mtimecmp     : Word
  /-- Enabled interrupt sources, one bit a source (R46). -/
  enabled      : Word
  /-- Pending interrupt sources, one bit a source (R46, R56). -/
  pending      : Word
  /-- Scratchpad register (R48). -/
  mscratch     : Word
  /-- Machine exception program counter (R49). -/
  mepc         : Word
  /-- Machine trap cause (R49). -/
  mcause       : Word
  /-- Machine bad address; no rule of the hardware writes it (R49). -/
  mbadaddr     : Word
  /-- Address space identifier (R50). -/
  asid         : BitVec 6
  /-- Segment registers: base in bits 31..4, R W X in bits 2, 1, 0 (R53). -/
  seg          : Vector (BitVec 32) 16
  /-- The 64 maps of 2^`mapIndexBits` entries: key asid * 2^`mapIndexBits` + virtual page; an entry not listed holds
  `resetMapEntry` (R54). -/
  pageMap      : List (Nat × BitVec mapEntryBits)
  /-- The address after the ERET that entered user mode (R55). -/
  mresume      : Word
  /-- Stopped in WFI (R56, 60_exceptions.md R393). -/
  waiting      : Bool
  /-- Physical memory: the bytes written or loaded so far (R58). -/
  mem          : List Host.Cell
  /-- Physical addresses this hart has stored to since reset (20_memory.md R103). -/
  stored       : List Nat
  /-- MODEL'S OWN: the platform's I/O windows; no step changes them (20_memory.md R79, entry 3). -/
  devices      : List Region
  /-- MODEL'S OWN: recorded writes to I/O windows, newest first (20_memory.md R79, entry 3). -/
  ioWrites     : List IoWrite
  /-- MODEL'S OWN: the pending sets the environment presents at the coming step boundaries (60_exceptions.md R390, entry 7). -/
  arrivals     : List Word
  /-- MODEL'S OWN: how many values have been drawn (00_scope.md R12, entry 5). -/
  draws        : Nat
  deriving DecidableEq, Repr

/-- Why the machine stops. None is a hardware event: each marks a point where the source gives no behaviour
(00_scope.md R11, 93_implementation_defined.md section 2). All are safe: nothing can be proved about what the hardware
does there. -/
inductive Fault where
  /-- The fetched word matches no row of the opcode table; raised by the step (30_encoding.md R143, R144). Safe. -/
  | unlistedEncoding
  /-- `pc[1:0]` is not 0 at fetch; raised by the fetch (10_state.md R35). Safe. -/
  | fetchMisaligned
  /-- A fetch reads a byte this hart has stored to; raised by the fetch (20_memory.md R103). Safe. -/
  | fetchAfterStore
  /-- An integer register other than x0 is accessed through register set 3, or a trap would push one; raised by the operand
  operations and by trap entry (10_state.md R27, R28). Safe. -/
  | regsetInvalid
  /-- ERET, WFI, PFI or an opcode-13 instruction in user mode; raised by its meaning (44_machine_mode.md R319). Safe. -/
  | privilegedInUser
  /-- User mode accesses a CSR that is not a floating-point CSR or a counter; raised by the CSR access (10_state.md R52). Safe. -/
  | csrPrivilege
  /-- A CSR number outside the list; raised by the CSR access (10_state.md R52). Safe. -/
  | csrUnknown
  /-- A CSR instruction would write a counter or an identification register; raised by the CSR write (R42, R43). Safe. -/
  | csrReadOnlyWrite
  /-- A CSR instruction would write `mtvec`, `mip` or `mtime`; raised by the CSR write (R45, 44_machine_mode.md R311). Safe. -/
  | csrWriteUnspecified
  /-- The effective rounding mode is 5, 6 or 7; raised by the instructions with an `rm` field (43_floating_point.md R251). Safe. -/
  | fpRoundingModeInvalid
  /-- A user-mode data access with address nybble 8, 9 or 12 to 15; raised by translation (20_memory.md R86). Safe. -/
  | segSelectUnspecified
  /-- The selected segment register lacks the right the access needs; raised by translation (20_memory.md R89). Safe. -/
  | segPermission
  /-- The linear address is beyond the map and not in the unmapped top region; raised by translation (20_memory.md R90). Safe. -/
  | pageOutOfMap
  /-- MVSEG names a segment register above 15; raised by MVSEG (45_custom.md R333). Safe. -/
  | segIndexUnspecified
  /-- MVMAP's selector has a bit outside its two fields; raised by MVMAP (45_custom.md R334). Safe. -/
  | mapSelectorUnspecified
  deriving DecidableEq, Repr

/-- Why an instruction has no meaning. -/
inductive Refusal where
  /-- An instruction of the table whose meaning is not written; answered by `exec`'s arm alone. Safe. -/
  | notModelled (mnemonic : String)
  /-- One of the sixteen rows that have an encoding and no description; answered by its meaning in machine mode
  (45_custom.md R349). Safe: nothing follows. -/
  | undescribedInstruction (mnemonic : String)
  deriving DecidableEq, Repr

/-- What a meaning answers. -/
abbrev Result := Host.Outcome State Fault Refusal

/-- The machine right after reset (R60, R420): `pc`, `mode`, `ie` and `waiting` as the spec says; every other register at the
value Machine/ResetValues.lean names (DESIGN CHOICE, entry 1). What causes a reset is not in the source: in the model a reset is
the start of a run and nothing else (DESIGN CHOICE, entry 38). -/
def State.reset : State where
  pc           := resetPc
  mode         := resetMode
  ie           := resetIe
  modePrev     := resetModePrev
  iePrev       := false
  mstatusOther := resetWord
  xset0        := Vector.replicate 32 resetWord
  xset1        := Vector.replicate 32 resetWord
  xset2        := Vector.replicate 32 resetWord
  freg         := Vector.replicate 32 resetWord
  regset       := resetRegset
  fflags       := 0
  frm          := 0
  cycle        := resetWord
  time         := resetWord
  instret      := resetWord
  mtimecmp     := resetWord
  enabled      := 0
  pending      := 0
  mscratch     := resetWord
  mepc         := resetWord
  mcause       := resetWord
  mbadaddr     := resetWord
  asid         := 0
  seg          := Vector.replicate 16 resetSeg
  pageMap      := []
  mresume      := resetWord
  waiting      := false
  mem          := []
  stored       := []
  devices      := []
  ioWrites     := []
  arrivals     := []
  draws        := 0

end Sys2Proof.Machine
end

