-- ==== Sys2Proof/Machine/Cells.lean ====
section
/-! DEFINITION. Sparse data by address in one canonical form: a list of (key, value) pairs whose keys strictly rise. It holds
physical memory, the page map and the set of addresses stored to. -/

namespace Sys2Proof.Machine

/-- The value listed under a key. -/
def cellAt {α : Type} (k : Nat) : List (Nat × α) → Option α
  | [] => none
  | (j, v) :: rest => if j = k then some v else cellAt k rest

/-- The list with `v` under the key `k`, keys still rising. -/
def cellPut {α : Type} (k : Nat) (v : α) : List (Nat × α) → List (Nat × α)
  | [] => [(k, v)]
  | (j, w) :: rest =>
    if k < j then (k, v) :: (j, w) :: rest
    else if k = j then (k, v) :: rest
    else (j, w) :: cellPut k v rest

/-- The list without the key `k`. -/
def cellDrop {α : Type} (k : Nat) : List (Nat × α) → List (Nat × α)
  | [] => []
  | (j, w) :: rest => if j = k then rest else (j, w) :: cellDrop k rest

/-- Every key of the list is above `k`. -/
def keysAbove {α : Type} (k : Nat) : List (Nat × α) → Bool
  | [] => true
  | (j, _) :: rest => decide (k < j) && keysAbove k rest

/-- The keys strictly rise. -/
def keysRising {α : Type} : List (Nat × α) → Bool
  | [] => true
  | (j, _) :: rest => keysAbove j rest && keysRising rest

/-- The set of addresses with `k` added, still rising. -/
def addAddress (k : Nat) : List Nat → List Nat
  | [] => [k]
  | j :: rest => if k < j then k :: j :: rest else if k = j then j :: rest else j :: addAddress k rest

/-- The set of addresses without `k`. -/
def dropAddress (k : Nat) : List Nat → List Nat
  | [] => []
  | j :: rest => if j = k then rest else j :: dropAddress k rest

/-- The addresses strictly rise. -/
def addressesRising : List Nat → Bool
  | [] => true
  | j :: rest => rest.all (fun k => decide (j < k)) && addressesRising rest

/-- The canonical form of memory: addresses strictly rising. What an unlisted address reads as is "nothing written"
(`cellAt` answers none), which no entry equals. -/
def Memory.wf (m : List Host.Cell) : Bool := keysRising m

/-- The canonical form of the page map: keys strictly rising, no entry equal to what an unlisted entry holds. -/
def PageMap.wf (m : List (Nat × BitVec mapEntryBits)) : Bool := keysRising m && m.all (fun c => c.2 != resetMapEntry)

end Sys2Proof.Machine
end

