-- ==== Sys2Proof/Machine/Ops.lean ====
section
/-! DEFINITION. The named operations over registers and memory, address translation, instruction fetch, taking a trap and
returning from one. -/

namespace Sys2Proof.Machine

/-- Continue with the value, or stop with the fault. -/
def orFault {α : Type} (r : Except Fault α) (k : α → Result) : Result :=
  match r with
  | .ok a => k a
  | .error f => .fault f

/-- `pc <- t` (00_scope.md R9). -/
def State.setPc (s : State) (t : Word) : State := { s with pc := t }

/-- `pc <- pc + 4`, modulo 2^64 (10_state.md R34). -/
def State.advance (s : State) : State := s.setPc (s.pc + 4)

/-! ## Registers -/

/-- The registers of one set. -/
def State.bank (s : State) : RegSet → RegFile
  | .set0 => s.xset0
  | .set1 => s.xset1
  | .set2 => s.xset2

/-- The state with the registers of one set replaced. -/
def State.setBank (s : State) (b : RegSet) (f : RegFile) : State :=
  match b with
  | .set0 => { s with xset0 := f }
  | .set1 => { s with xset1 := f }
  | .set2 => { s with xset2 := f }

/-- `xset[b][i]`; register 0 of every set reads as zero (10_state.md R22, R24). -/
def State.xval (s : State) (b : RegSet) (i : Reg) : Word :=
  if i = 0 then 0 else (s.bank b)[i.toNat]'i.isLt

/-- `xset[b][i] <- v`; a write to register 0 is discarded (R22). -/
def State.setX (s : State) (b : RegSet) (i : Reg) (v : Word) : State :=
  if i = 0 then s else s.setBank b ((s.bank b).set i.toNat v i.isLt)

/-- The value the next draw has (00_scope.md R12). -/
def State.drawn (s : State) : Word := Config.draw s.draws

/-- The state after one draw. -/
def State.afterDraw (s : State) : State := { s with draws := s.draws + 1 }

/-- The 64 bits of a floating-point register; f0 reads as positive zero (R31). -/
def State.fval (s : State) (i : Reg) : Word :=
  if i = 0 then 0 else s.freg[i.toNat]'i.isLt

/-- A floating-point operand: bits 31..0 of the register (R32, 43_floating_point.md R250). -/
def State.fsingle (s : State) (i : Reg) : Tetra := (s.fval i).extractLsb' 0 32

/-- `f[i] <- {draw_32(), r}`; a write to f0 is discarded (R31, R32). -/
def State.setF (s : State) (i : Reg) (r : Tetra) : State :=
  if i = 0 then s
  else { s.afterDraw with freg := s.freg.set i.toNat (joinBits 64 (s.drawn.extractLsb' 0 32) r) i.isLt }

/-- `fflags <- fflags | fl` (43_floating_point.md R253). -/
def State.accrue (s : State) (fl : BitVec 5) : State := { s with fflags := s.fflags ||| fl }

/-! ## The register-set stack (10_state.md R25 to R28) -/

/-- `cur`: stack entry 0, bits 5:4 (R26). -/
def currentSet (regset : BitVec 16) : BitVec 2 := regset.extractLsb' 4 2

/-- `prev`: stack entry 1, bits 7:6 (R26). -/
def previousSet (regset : BitVec 16) : BitVec 2 := regset.extractLsb' 6 2

/-- The bit of `regset` that selects for an operand role (R25, R27). -/
def selectBit : Role → Nat
  | .rd => 0
  | .rs1 => 1
  | .rs2 => 2
  | .rs3 => 3

/-- `set_for(role)` (R27). -/
def setFor (role : Role) (regset : BitVec 16) : BitVec 2 :=
  if regset.getLsbD (selectBit role) then currentSet regset else previousSet regset

/-- The register set a two-bit number names; 3 names none (R27). -/
def namedSet (n : BitVec 2) : Option RegSet :=
  match n with
  | 0 => some .set0
  | 1 => some .set1
  | 2 => some .set2
  | _ => none

/-- The register set that an operand role uses, if there is one. -/
def State.roleSet (s : State) (role : Role) : Option RegSet := namedSet (setFor role s.regset)

/-- `stack <- {stack[9:0], cur + 1}`, select bits kept (R26, 60_exceptions.md R380). A number above 2 names no set (R28). -/
def pushRegset (regset : BitVec 16) : Except Fault (BitVec 16) :=
  if (currentSet regset).toNat < 2 then
    .ok (joinBits 16 (joinBits 12 (regset.extractLsb' 4 10) (currentSet regset + 1)) (regset.extractLsb' 0 4))
  else .error .regsetInvalid

/-- `stack <- {draw_2(), stack[11:2]}`, select bits kept (R26). -/
def popRegset (regset : BitVec 16) (top : BitVec 2) : BitVec 16 :=
  joinBits 16 (joinBits 12 top (regset.extractLsb' 6 10)) (regset.extractLsb' 0 4)

/-! ## Address translation (20_memory.md R85 to R95) -/

/-- Segment register `n`. -/
def State.segAt (s : State) (n : BitVec 4) : BitVec 32 := s.seg[n.toNat]'n.isLt

/-- `seg[n] <- v`. -/
def State.setSeg (s : State) (n : BitVec 4) (v : BitVec 32) : State := { s with seg := s.seg.set n.toNat v n.isLt }

/-- The key of an entry of the page map. -/
def mapKey (a : BitVec 6) (v : BitVec mapIndexBits) : Nat := a.toNat * 2 ^ mapIndexBits + v.toNat

/-- `map[a][v]` (10_state.md R54). -/
def State.mapAt (s : State) (a : BitVec 6) (v : BitVec mapIndexBits) : BitVec mapEntryBits :=
  (cellAt (mapKey a v) s.pageMap).getD resetMapEntry

/-- `map[a][v] <- e`, in canonical form. -/
def State.setMap (s : State) (a : BitVec 6) (v : BitVec mapIndexBits) (e : BitVec mapEntryBits) : State :=
  { s with pageMap := if e = resetMapEntry then cellDrop (mapKey a v) s.pageMap else cellPut (mapKey a v) e s.pageMap }

/-- `segno` (R86): a fetch uses 12 + va[31:30]; a data access uses va[31:28], where the table gives 0 to 7, 10 and 11. -/
def segSelect (va : VAddr) (k : Access) : Except Fault (BitVec 4) :=
  match k with
  | .fetch => .ok (12 + (va.extractLsb' 30 2).setWidth 4)
  | _ =>
    let n := va.extractLsb' 28 4
    if n.toNat < 8 || n == 10 || n == 11 then .ok n else .error .segSelectUnspecified

/-- The access right of a segment register (R89). -/
def permitted (seg : BitVec 32) (k : Access) : Bool := seg.getLsbD (rightBit k)

/-- The linear address, kept to 44 bits (R88). -/
def linearAddress (va : VAddr) (seg : BitVec 32) : LAddr :=
  va.setWidth 44 + ((seg.extractLsb' 4 28).setWidth 44 <<< 16)

/-- From linear to physical address: the unmapped top region (R91), then the map of the current ASID (R90). -/
def pageTranslate (la : LAddr) (s : State) : Except Fault LAddr :=
  if la.extractLsb' 32 12 = 0 ∧ la.extractLsb' 24 8 = 0xFF then .ok la
  else if la.extractLsb' (16 + mapIndexBits) (28 - mapIndexBits) ≠ 0 then .error .pageOutOfMap
  else .ok (joinBits 44 (s.mapAt s.asid (la.extractLsb' 16 mapIndexBits)) (la.extractLsb' 0 16))

/-- `translate(va, kind)` (R95). -/
def translate (va : VAddr) (k : Access) (s : State) : Except Fault LAddr :=
  match s.mode with
  | .machine => .ok (va.setWidth 44)
  | .user =>
    if k = .fetch ∧ va.extractLsb' 24 8 = 0xFF then pageTranslate (va.setWidth 44) s
    else
      match segSelect va k with
      | .error f => .error f
      | .ok n =>
        if permitted (s.segAt n) k then pageTranslate (linearAddress va (s.segAt n)) s
        else .error .segPermission

/-- The physical addresses of `n` bytes from `va`, each translated on its own, addresses modulo 2^32 (R76, R77). -/
def translateRange (va : VAddr) (n : Nat) (k : Access) (s : State) : Except Fault (List Nat) :=
  match n with
  | 0 => .ok []
  | n + 1 =>
    match translate va k s, translateRange (va + 1) n k s with
    | .ok pa, .ok rest => .ok (pa.toNat :: rest)
    | .error f, _ => .error f
    | .ok _, .error f => .error f

/-! ## Memory -/

/-- The byte of physical memory at an address: what was last written there, or its content after reset
(70_reset_and_hazards.md R421). -/
def State.byteAt (s : State) (a : Nat) : Byte := (cellAt a s.mem).getD (Config.initialByte a)

/-- The address lies in an I/O window of the platform (20_memory.md R79). -/
def State.isDevice (s : State) (a : Nat) : Bool :=
  s.devices.any fun r => decide (r.base ≤ a) && decide (a < r.base + r.size)

/-- The address lies in the platform's ROM (20_memory.md R80, entry 3). -/
def isRom (a : Nat) : Bool := decide (romBase ≤ a) && decide (a < romBase + Config.romSize)

/-- A store to the address changes memory: it is in no I/O window and not in the ROM (R79, R80, entry 3). -/
def State.isWritable (s : State) (a : Nat) : Bool := !s.isDevice a && !isRom a

/-- Read one physical byte: memory, or the environment's answer, a draw (R79). -/
def readByte (a : Nat) (s : State) : Byte × State :=
  if s.isDevice a then (s.drawn.extractLsb' 0 8, s.afterDraw) else (s.byteAt a, s)

/-- Read physical bytes, first to last. The order shows in nothing: each answer of a window is a free value of its own
(R75, entry 37). -/
def readBytes : List Nat → State → List Byte × State
  | [], s => ([], s)
  | a :: rest, s =>
    let r := readByte a s
    let q := readBytes rest r.2
    (r.1 :: q.1, q.2)

/-- Write one physical byte of memory, where the address is writable; the address counts as stored to (R103). -/
def writeByte (a : Nat) (b : Byte) (s : State) : State :=
  { s with mem := if s.isWritable a then cellPut a b s.mem else s.mem, stored := addAddress a s.stored }

/-- Write physical bytes, first to last. -/
def writeBytes : List Host.Cell → State → State
  | [], s => s
  | (a, b) :: rest, s => writeBytes rest (writeByte a b s)

/-- The event that the environment sees of one bus cycle: the bytes it puts in I/O windows, if any (R79). -/
def ioEvent (cells : List Host.Cell) (s : State) : List IoWrite :=
  match cells.filter fun c => s.isDevice c.1 with
  | [] => []
  | c :: rest => [⟨c :: rest⟩]

/-- One bus cycle of a store (R75): its bytes reach memory and the I/O windows together; the event is recorded, newest first. -/
def busWrite (cells : List Host.Cell) (s : State) : State :=
  { writeBytes cells s with ioWrites := ioEvent cells s ++ s.ioWrites }

/-- The bus cycles of a store, first to last. -/
def busWrites : List (List Host.Cell) → State → State
  | [], s => s
  | cells :: rest, s => busWrites rest (busWrite cells s)

/-- An access of `n` bytes at a multiple of `n` takes a single bus cycle (R75). -/
def singleCycle (va : VAddr) (n : Nat) : Bool := va.toNat % n == 0

/-- A list in an order that the number `w` names: any order, for some `w` (entry 37). -/
def inOrder {α : Type} (w : Nat) : List α → List α
  | [] => []
  | x :: rest => (inOrder (w / (rest.length + 1)) rest).insertIdx (w % (rest.length + 1)) x

/-- The bytes of a store from `va` reach the bus (R75): in one cycle where they are aligned, else each on its own in an order
nothing is known of, a draw (entry 37). -/
def storeCells (va : VAddr) (cells : List Host.Cell) (s : State) : State :=
  if singleCycle va cells.length then busWrite cells s
  else busWrites ((inOrder s.drawn.toNat cells).map fun c => [c]) s.afterDraw

/-- `MemRead(va, n)` (R76) as its bytes, lowest address first. -/
def memRead (va : VAddr) (n : Nat) (s : State) : Except Fault (List Byte × State) :=
  match translateRange va n .load s with
  | .ok pas => .ok (readBytes pas s)
  | .error f => .error f

/-- `MemWrite(va, n, v)` of the bytes of `v`, lowest address first: all translations before any write (R77). -/
def memWrite (va : VAddr) (bytes : List Byte) (s : State) : Except Fault State :=
  match translateRange va bytes.length .store s with
  | .ok pas => .ok (storeCells va (pas.zip bytes) s)
  | .error f => .error f

/-- `Fetch(pc)` (R72, R78) as its four bytes: `pc` a multiple of 4, and, without `IFETCH_COHERENT`, no byte this hart has
stored to (R103). -/
def fetchBytes (s : State) : Except Fault (List Byte × State) :=
  if s.pc.extractLsb' 0 2 ≠ 0 then .error .fetchMisaligned
  else
    match translateRange (s.pc.setWidth 32) 4 .fetch s with
    | .error f => .error f
    | .ok pas =>
      if !ifetchCoherent && pas.any (fun a => s.stored.contains a) then .error .fetchAfterStore
      else .ok (readBytes pas s)

/-- A byte put into memory from outside the machine: not a store of this hart (entry 29). -/
def loadByte (a : Nat) (b : Byte) (s : State) : State :=
  { s with mem := cellPut a b s.mem, stored := dropAddress a s.stored }

/-- Bytes put into memory from outside the machine. -/
def loadBytes : List (Nat × Byte) → State → State
  | [], s => s
  | (a, b) :: rest, s => loadBytes rest (loadByte a b s)

/-! ## Taking a trap and returning from one (60_exceptions.md R380 to R387) -/

/-- Every kind of trap (R385). -/
def allKinds : List TrapKind := .ecall :: .ebreak :: (List.finRange 64).map .interrupt

/-- No two kinds share a code, whatever the modes: what R371 asks of `cfg.CAUSE_CODE`. -/
def causeCodesDistinct : Bool :=
  allKinds.all fun k => allKinds.all fun j => [Mode.user, Mode.machine].all fun m => [Mode.user, Mode.machine].all fun n =>
    k == j || Config.causeCodeRaw k m != Config.causeCodeRaw j n

/-- A code for each kind that meets R371, used where the configuration does not. -/
def fallbackCode : TrapKind → Word
  | .ecall => 64
  | .ebreak => 65
  | .interrupt s => BitVec.ofNat 64 s.val

/-- `cfg.CAUSE_CODE(kind, mode)`, injective on kinds (R371, entry 8). -/
def causeCode (k : TrapKind) (m : Mode) : Word :=
  if causeCodesDistinct then Config.causeCodeRaw k m else fallbackCode k

/-- Where control goes (R381): the resume address from user mode, the open target from machine mode (entry 10). -/
def trapTarget (k : TrapKind) (s : State) : Word :=
  match s.mode with
  | .user => trapTargetFromUser k s.mresume
  | .machine => Config.trapTargetFromMachine k

/-- `trap(kind, epc)` (R380), one indivisible transition: the single operation ECALL, EBREAK and every interrupt use. -/
def takeTrap (k : TrapKind) (epc : Word) (s : State) : Result :=
  orFault (pushRegset s.regset) fun pushed =>
    .next { s with
      modePrev := s.mode
      iePrev   := s.ie
      mode     := .machine
      ie       := false
      mepc     := epc
      mcause   := causeCode k s.mode
      regset   := pushed
      waiting  := false
      pc       := trapTarget k s }

/-- ERET (44_machine_mode.md R302, 60_exceptions.md R387): the saved fields are unspecified afterwards (entry 12). -/
def returnFromTrap (s : State) : State :=
  { s.afterDraw with
    mresume  := s.pc + 4
    regset   := popRegset s.regset (s.drawn.extractLsb' 0 2)
    ie       := s.iePrev
    mode     := eretMode s.modePrev
    iePrev   := s.drawn.getLsbD 2
    modePrev := if s.drawn.getLsbD 3 then .machine else .user
    pc       := s.mepc }

/-! ## Interrupts (60_exceptions.md R390 to R393) -/

/-- `cfg.mie_layout` gives the timer a bit and no two sources one bit: what R390, R391 and 93_implementation_defined.md section 3
ask of it. -/
def mieLayoutValid : Bool :=
  decide (Config.mieBit timerSource < 64) &&
    (List.finRange 64).all fun j => (List.finRange 64).all fun k =>
      j == k || decide (64 ≤ Config.mieBit k) || Config.mieBit j != Config.mieBit k

/-- The bit of `mie` and `mip` that belongs to a source: the configured one, or, where the configuration is not a valid layout,
the source's own number (10_state.md R46, entry 8). -/
def mieBit (k : Fin 64) : Nat := if mieLayoutValid then Config.mieBit k else k.val

/-- `Sources` (R390): the sources that have a bit; the timer is one (R391). -/
def sources : Word := sourceSet fun k => decide (mieBit k < 64)

/-- A set of sources without the timer: a write to `mtimecmp` clears its pending bit (R391). -/
def withoutTimer (set : Word) : Word := set &&& ~~~((1 : Word) <<< timerSource.val)

/-- The sources that are pending and enabled (R390). -/
def requests (s : State) : Word := s.pending &&& s.enabled

/-- `int_req` (R390). -/
def intRequest (s : State) : Bool := requests s != 0

/-- `cfg.int_priority` held to the set it chooses from (R392): the configured choice if it is in the set, else the lowest
member. -/
def chooseSource (set : Word) : Fin 64 :=
  if set.getLsbD (Config.intPriority set).val then Config.intPriority set
  else ((List.finRange 64).find? fun i => set.getLsbD i.val).getD 0

/-- The trap of the interrupt that is accepted (R392). -/
def takeInterrupt (epc : Word) (s : State) : Result := takeTrap (.interrupt (chooseSource (requests s))) epc s

/-- The end of a WFI wait (R393): the service routine if interrupts are enabled, else the next instruction. -/
def wakeUp (s : State) : Result :=
  if s.ie then takeInterrupt (s.pc + 4) s else .next { s with waiting := false, pc := s.pc + 4 }

end Sys2Proof.Machine
end

