-- ==== Sys2Proof/Machine/Operands.lean ====
section
/-! DEFINITION. The operand forms: register operands through the register-set selection (10_state.md R22, R27), immediates
and displacements (30_encoding.md R135 to R140), the effective address (20_memory.md R71), the rounding mode
(43_floating_point.md R251). -/

namespace Sys2Proof.Machine

/-- `x[i]` in a role (R9, R27). Index 0 makes no register-file access (44_machine_mode.md R311). -/
def readX (role : Role) (i : Reg) (s : State) : Except Fault Word :=
  if i = 0 then .ok 0
  else
    match s.roleSet role with
    | some b => .ok (s.xval b i)
    | none => .error .regsetInvalid

/-- `x[rd] <- v` (R9, R27); a write to x0 is discarded (R22). -/
def writeX (rd : Reg) (v : Word) (s : State) : Except Fault State :=
  if rd = 0 then .ok s
  else
    match s.roleSet .rd with
    | some b => .ok (s.setX b rd v)
    | none => .error .regsetInvalid

/-- Write the destination and go on with the next instruction (R34). -/
def finishX (rd : Reg) (v : Word) (s : State) : Result := orFault (writeX rd v s) fun t => .next t.advance

/-- imm[31:12] in place, sign-extended (R138). -/
def upperImmediate (imm : BitVec 20) : Word := sext64 (joinBits 32 imm (0 : BitVec 12))

/-- A branch displacement: imm[12:1] with bit 0 zero, sign-extended (R137). -/
def branchDisplacement (off : BitVec 12) : Word := sext64 (joinBits 13 off (0 : BitVec 1))

/-- The JAL offset: imm[20:1] with bit 0 zero, sign-extended (R139). -/
def jumpDisplacement (off : BitVec 20) : Word := sext64 (joinBits 21 off (0 : BitVec 1))

/-- `{t[63:2], 2'b00}` (41_control_flow.md R201, R202). -/
def clearLow2 (t : Word) : Word := t &&& ~~~(3 : Word)

/-- The effective address of a load or store (20_memory.md R71). -/
def effectiveAddress (base : Word) (imm : BitVec 12) : VAddr := (base + sext64 imm).setWidth 32

/-- The shift distance in a register: its low six bits (40_integer.md R175). -/
def shiftCount (v : Word) : Nat := (v.extractLsb' 0 6).toNat

/-- The rounding mode a code stands for; 5, 6 and 7 stand for none (R251). -/
def roundingOf (code : BitVec 3) : Except Fault RoundingMode :=
  match code with
  | 0 => .ok .nearestEven
  | 1 => .ok .towardZero
  | 2 => .ok .down
  | 3 => .ok .up
  | 4 => .ok .nearestAway
  | _ => .error .fpRoundingModeInvalid

/-- `rm_eff` (R251): the dynamic mode of `frm` where the instruction says 0b111. -/
def roundingMode (rm : BitVec 3) (s : State) : Except Fault RoundingMode :=
  roundingOf (if rm = 7 then s.frm else rm)

end Sys2Proof.Machine
end

