-- ==== Sys2Proof/Machine/Control.lean ====
section
/-! DEFINITION. Control flow and fences (41_control_flow.md R200 to R212): no delay slot, no flag, no exception. -/

namespace Sys2Proof.Machine

/-- `x[rd] <- pc + 4; pc <- t` with bits 1:0 of `t` cleared (R201, R202). -/
def jumpLink (rd : Reg) (t : Word) (s : State) : Result :=
  orFault (writeX rd (s.pc + 4) s) fun u => .next (u.setPc (clearLow2 t))

/-- Branch by the displacement if `c`, else the next instruction (section 3). -/
def branchIf (c : Bool) (off : BitVec 12) (s : State) : Result :=
  .next (if c then s.setPc (s.pc + branchDisplacement off) else s.advance)

/-- A branch on two registers (section 3). -/
def branchOn (rs1 rs2 : Reg) (off : BitVec 12) (cond : Word → Word → Bool) (s : State) : Result :=
  orFault (readX .rs1 rs1 s) fun a => orFault (readX .rs2 rs2 s) fun b => branchIf (cond a b) off s

/-- JAL (R201). -/
def execJal (rd : Reg) (off : BitVec 20) (s : State) : Result := jumpLink rd (s.pc + jumpDisplacement off) s

/-- JALR (R202): Rs1 is read before Rd is written. -/
def execJalr (rd rs1 : Reg) (imm : BitVec 12) (s : State) : Result :=
  orFault (readX .rs1 rs1 s) fun a => jumpLink rd (a + sext64 imm) s

/-- BEQ (R203). -/
def execBeq (rs1 rs2 : Reg) (off : BitVec 12) (s : State) : Result := branchOn rs1 rs2 off (fun a b => a == b) s

/-- BNE (R204). -/
def execBne (rs1 rs2 : Reg) (off : BitVec 12) (s : State) : Result := branchOn rs1 rs2 off (fun a b => a != b) s

/-- BLT (R205). -/
def execBlt (rs1 rs2 : Reg) (off : BitVec 12) (s : State) : Result := branchOn rs1 rs2 off (fun a b => a.slt b) s

/-- BGE (R206). -/
def execBge (rs1 rs2 : Reg) (off : BitVec 12) (s : State) : Result := branchOn rs1 rs2 off (fun a b => b.sle a) s

/-- BLTU (R207). -/
def execBltu (rs1 rs2 : Reg) (off : BitVec 12) (s : State) : Result := branchOn rs1 rs2 off (fun a b => a.ult b) s

/-- BGEU (R208). -/
def execBgeu (rs1 rs2 : Reg) (off : BitVec 12) (s : State) : Result := branchOn rs1 rs2 off (fun a b => b.ule a) s

/-- FENCE (R209): "a nop operation", for every pred and succ. -/
def execFence (_pred _succ : BitVec 4) (s : State) : Result := .next s.advance

/-- FENCE.I (R210): a no-operation. -/
def execFenceI (s : State) : Result := .next s.advance

/-- CALL, the spelling of JAL x1, offset (R201). -/
def execCall (off : BitVec 20) (s : State) : Result := jumpLink 1 (s.pc + jumpDisplacement off) s

/-- RET, the spelling of JALR x0, 0(x1) (R202): to the address in x1, its two low bits cleared. -/
def execRet (s : State) : Result := orFault (readX .rs1 1 s) fun a => .next (s.setPc (clearLow2 a))

/-- BRA, the spelling of BEQ x0, x0, target (R203): "the branch is always taken". -/
def execBra (off : BitVec 12) (s : State) : Result := branchIf true off s

/-- BEQZ, the spelling of BEQ Rs1, x0, target (R203). -/
def execBeqz (rs1 : Reg) (off : BitVec 12) (s : State) : Result :=
  orFault (readX .rs1 rs1 s) fun a => branchIf (a == 0) off s

/-- BLE a, b, the spelling of BGE b, a, target (R206): `a` is the word's Rs2, `b` its Rs1. -/
def execBle (a b : Reg) (off : BitVec 12) (s : State) : Result := branchOn b a off (fun u v => v.sle u) s

end Sys2Proof.Machine
end

