-- ==== Sys2Proof/Machine/Csr.lean ====
section
/-! DEFINITION. The control and status registers (10_state.md R40 to R52): numbers, access rights, read values and write
effects (44_machine_mode.md R311). -/

namespace Sys2Proof.Machine

/-- The CSRs of R40 and the high halves of the counters (R42). -/
inductive Csr where
  | fflags | frm | fcsr
  | cycle | time | instret
  | cycleh | timeh | instreth
  | mcpuid | mimpid | mhartid
  | mstatus | mtvec | mie | mtimecmp | mtime
  | mscratch | mepc | mcause | mbadaddr | mip
  | asid | regset
  deriving DecidableEq, Repr

/-- The register a CSR number names (R40, R42). -/
def csrOf (n : BitVec 12) : Option Csr :=
  match n with
  | 0x001 => some .fflags
  | 0x002 => some .frm
  | 0x003 => some .fcsr
  | 0xC00 => some .cycle
  | 0xC01 => some .time
  | 0xC02 => some .instret
  | 0xC80 => some .cycleh
  | 0xC81 => some .timeh
  | 0xC82 => some .instreth
  | 0xF00 => some .mcpuid
  | 0xF01 => some .mimpid
  | 0xF10 => some .mhartid
  | 0x300 => some .mstatus
  | 0x301 => some .mtvec
  | 0x304 => some .mie
  | 0x321 => some .mtimecmp
  | 0x701 => some .mtime
  | 0x340 => some .mscratch
  | 0x341 => some .mepc
  | 0x342 => some .mcause
  | 0x343 => some .mbadaddr
  | 0x344 => some .mip
  | 0x181 => some .asid
  | 0x790 => some .regset
  | _ => none

/-- The CSRs user mode may access (R52 (b)). -/
def userCsr (c : Csr) : Bool :=
  match c with
  | .fflags | .frm | .fcsr | .cycle | .time | .instret | .cycleh | .timeh | .instreth => true
  | _ => false

/-- The access check (R52): an unlisted number first, then the mode. -/
def csrAccess (n : BitVec 12) (s : State) : Except Fault Csr :=
  match csrOf n with
  | none => .error .csrUnknown
  | some c => if s.mode = .user ∧ userCsr c = false then .error .csrPrivilege else .ok c

/-- The `cfg.mie_layout` view of a set of sources (R46, entry 8). -/
def mieView (set : Word) : Word :=
  (List.finRange 64).foldl
    (fun acc i => if set.getLsbD i.val && decide (mieBit i < 64) then acc ||| (1 : Word) <<< mieBit i else acc) 0

/-- The set of sources a value of `mie` enables (R46, entry 8). -/
def mieSources (v : Word) : Word := sourceSet fun i => decide (mieBit i < 64) && v.getLsbD (mieBit i)

/-- The fields of `mstatus` (R44). -/
def State.mstatusFields (s : State) : MstatusFields := ⟨s.mode, s.ie, s.modePrev, s.iePrev, s.mstatusOther⟩

/-- Bits 63..32 of a counter (R42). -/
def highHalf (v : Word) : Word := zext64 (v.extractLsb' 32 32)

/-- `csr_read` (R311). -/
def csrRead (c : Csr) (s : State) : Word :=
  match c with
  | .fflags => zext64 s.fflags
  | .frm => zext64 s.frm
  | .fcsr => joinBits 64 s.frm s.fflags
  | .cycle => s.cycle
  | .time => s.time
  | .instret => s.instret
  | .cycleh => highHalf s.cycle
  | .timeh => highHalf s.time
  | .instreth => highHalf s.instret
  | .mcpuid => Config.mcpuid
  | .mimpid => Config.mimpid
  | .mhartid => Config.mhartid
  | .mstatus => Config.mstatusPack s.mstatusFields
  | .mtvec => mtvecValue
  | .mie => mieView s.enabled
  | .mtimecmp => s.mtimecmp
  | .mtime => s.time
  | .mscratch => s.mscratch
  | .mepc => s.mepc
  | .mcause => s.mcause
  | .mbadaddr => s.mbadaddr
  | .mip => mieView s.pending
  | .asid => zext64 s.asid
  | .regset => zext64 s.regset

/-- `cfg.mstatus_unpack` (R44), held to 60_exceptions.md R395: user mode is entered only by ERET, so the mode a write of `mstatus`
names is machine mode, its writer's (R52; DEDUCED, entry 9). -/
def mstatusUnpack (v : Word) : MstatusFields := { Config.mstatusUnpack v with mode := .machine }

/-- A write of `mstatus` (R44, 44_machine_mode.md R311): the mode, the interrupt enable, the saved pair and the rest, all at once
(entry 9). -/
def State.setMstatus (s : State) (f : MstatusFields) : State :=
  { s with mode := f.mode, ie := f.ie, modePrev := f.modePrev, iePrev := f.iePrev, mstatusOther := f.other }

/-- `csr_write` (R311). -/
def csrWrite (c : Csr) (v : Word) (s : State) : Except Fault State :=
  match c with
  | .fflags => .ok { s with fflags := v.extractLsb' 0 5 }
  | .frm => .ok { s with frm := v.extractLsb' 0 3 }
  | .fcsr => .ok { s with fflags := v.extractLsb' 0 5, frm := v.extractLsb' 5 3 }
  | .cycle => .error .csrReadOnlyWrite
  | .time => .error .csrReadOnlyWrite
  | .instret => .error .csrReadOnlyWrite
  | .cycleh => .error .csrReadOnlyWrite
  | .timeh => .error .csrReadOnlyWrite
  | .instreth => .error .csrReadOnlyWrite
  | .mcpuid => .error .csrReadOnlyWrite
  | .mimpid => .error .csrReadOnlyWrite
  | .mhartid => .error .csrReadOnlyWrite
  | .mstatus => .ok (s.setMstatus (mstatusUnpack v))
  | .mtvec => .error .csrWriteUnspecified
  | .mie => .ok { s with enabled := mieSources v }
  | .mtimecmp => .ok { s with mtimecmp := v, pending := withoutTimer s.pending }
  | .mtime => .error .csrWriteUnspecified
  | .mscratch => .ok { s with mscratch := v }
  | .mepc => .ok { s with mepc := v }
  | .mcause => .ok { s with mcause := v }
  | .mbadaddr => .ok { s with mbadaddr := v }
  | .mip => .error .csrWriteUnspecified
  | .asid => .ok { s with asid := v.extractLsb' 0 6 }
  | .regset => .ok { s with regset := v.extractLsb' 0 16 }

/-- A CSR instruction (R311, R313 to R318): access check, read, Rd written through the register-set selection in force
before the write, then the write of `f` of the old value and the operand, if it writes. -/
def csrInstr (rd : Reg) (n : BitVec 12) (operand : Except Fault Word) (writes : Bool) (f : Word → Word → Word)
    (s : State) : Result :=
  orFault (csrAccess n s) fun c =>
    orFault operand fun a =>
      orFault (writeX rd (csrRead c s) s) fun t =>
        if writes then orFault (csrWrite c (f (csrRead c s) a) t) fun u => .next u.advance
        else .next t.advance

end Sys2Proof.Machine
end

