-- ==== Sys2Proof/Machine/System.lean ====
section
/-! DEFINITION. Environment call, breakpoint, return, wait, counter reads and CSR instructions
(44_machine_mode.md R300 to R319). -/

namespace Sys2Proof.Machine

/-- A machine-only instruction (R319). -/
def machineOnly (s : State) (r : Result) : Result :=
  match s.mode with
  | .user => .fault .privilegedInUser
  | .machine => r

/-- ECALL (R301): takes the environment-call trap. -/
def execEcall (s : State) : Result := takeTrap .ecall (s.pc + epcOffsetEcall) s

/-- EBREAK (R303): takes the breakpoint trap. -/
def execEbreak (s : State) : Result := takeTrap .ebreak (s.pc + epcOffsetEcall) s

/-- ERET (R302). -/
def execEret (s : State) : Result := machineOnly s (.next (returnFromTrap s))

/-- WFI (R304): the wait ends at once if an interrupt is present; else `waiting`, `pc` at the WFI (entry 30). -/
def execWfi (s : State) : Result :=
  machineOnly s (if intRequest s then wakeUp s else .next { s with waiting := true })

/-- RDCYCLE (R305, R306). -/
def execRdcycle (rd : Reg) (s : State) : Result := finishX rd (csrRead .cycle s) s

/-- RDCYCLEH (R305, R307). -/
def execRdcycleh (rd : Reg) (s : State) : Result := finishX rd (csrRead .cycleh s) s

/-- RDTIME (R305, R308). -/
def execRdtime (rd : Reg) (s : State) : Result := finishX rd (csrRead .time s) s

/-- RDTIMEH (R305, R309). -/
def execRdtimeh (rd : Reg) (s : State) : Result := finishX rd (csrRead .timeh s) s

/-- RDINSTRET (R305, R310). -/
def execRdinstret (rd : Reg) (s : State) : Result := finishX rd (csrRead .instret s) s

/-- RDINSTRETH (R305, R312). -/
def execRdinstreth (rd : Reg) (s : State) : Result := finishX rd (csrRead .instreth s) s

/-- CSRRW (R313): always writes. -/
def execCsrrw (rd : Reg) (csr : BitVec 12) (rs1 : Reg) (s : State) : Result :=
  csrInstr rd csr (readX .rs1 rs1 s) true (fun _ a => a) s

/-- CSRRS (R314): no write with an Rs1 field of 0. -/
def execCsrrs (rd : Reg) (csr : BitVec 12) (rs1 : Reg) (s : State) : Result :=
  csrInstr rd csr (readX .rs1 rs1 s) (rs1 != 0) (fun t a => t ||| a) s

/-- CSRRC (R315): no write with an Rs1 field of 0. -/
def execCsrrc (rd : Reg) (csr : BitVec 12) (rs1 : Reg) (s : State) : Result :=
  csrInstr rd csr (readX .rs1 rs1 s) (rs1 != 0) (fun t a => t &&& ~~~a) s

/-- CSRRWI (R316): always writes. -/
def execCsrrwi (rd : Reg) (csr : BitVec 12) (zimm : BitVec 5) (s : State) : Result :=
  csrInstr rd csr (.ok (zext64 zimm)) true (fun _ a => a) s

/-- CSRRSI (R317): no write with an immediate field of 0. -/
def execCsrrsi (rd : Reg) (csr : BitVec 12) (zimm : BitVec 5) (s : State) : Result :=
  csrInstr rd csr (.ok (zext64 zimm)) (zimm != 0) (fun t a => t ||| a) s

/-- CSRRCI (R318): no write with an immediate field of 0. -/
def execCsrrci (rd : Reg) (csr : BitVec 12) (zimm : BitVec 5) (s : State) : Result :=
  csrInstr rd csr (.ok (zext64 zimm)) (zimm != 0) (fun t a => t &&& ~~~a) s

end Sys2Proof.Machine
end

