-- ==== Sys2Proof/Machine/Custom.lean ====
section
/-! DEFINITION. The custom instructions (45_custom.md R330 to R351): PFI, MVSEG, MVMAP, the inter-register-set MOV's effect,
and the sixteen rows that have an encoding and no description. -/

namespace Sys2Proof.Machine

/-- PFI (R330): takes an interrupt that is present, whatever `ie` is. -/
def execPfi (s : State) : Result :=
  machineOnly s (if intRequest s then takeInterrupt (s.pc + 4) s else .next s.advance)

/-- MVSEG (R333): Rd receives the segment register that Rs2 names, Rs1's low 32 bits replace it, in one step. -/
def execMvseg (rd rs1 rs2 : Reg) (s : State) : Result :=
  machineOnly s <|
    orFault (readX .rs2 rs2 s) fun i =>
      if 15 < i.toNat then .fault .segIndexUnspecified
      else
        orFault (readX .rs1 rs1 s) fun a =>
          orFault (writeX rd (zext64 (s.segAt (i.extractLsb' 0 4))) s) fun t =>
            .next (t.setSeg (i.extractLsb' 0 4) (a.extractLsb' 0 32)).advance

/-- The map that MVMAP's selector names: bits 19..16, among the sixty-four (R334). -/
def selectorTask (sel : Word) : BitVec 6 := (sel.extractLsb' 16 4).setWidth 6

/-- The entry that MVMAP's selector names: bits 8..0, among the entries of a map (R334). -/
def selectorEntry (sel : Word) : BitVec mapIndexBits := (sel.extractLsb' 0 9).setWidth mapIndexBits

/-- MVMAP's selector has no bit set outside its two fields (R334). -/
def selectorListed (sel : Word) : Bool := sel.extractLsb' 20 44 == 0 && sel.extractLsb' 9 7 == 0

/-- MVMAP (R334): Rd receives the map entry that Rs2 names, Rs1's low `mapEntryBits` bits replace it, in one step. -/
def execMvmap (rd rs1 rs2 : Reg) (s : State) : Result :=
  machineOnly s <|
    orFault (readX .rs2 rs2 s) fun sel =>
      if !selectorListed sel then .fault .mapSelectorUnspecified
      else
        orFault (readX .rs1 rs1 s) fun a =>
          orFault (writeX rd (zext64 (s.mapAt (selectorTask sel) (selectorEntry sel))) s) fun t =>
            .next (t.setMap (selectorTask sel) (selectorEntry sel) (a.extractLsb' 0 mapEntryBits)).advance

/-- `set_of` of the inter-register-set MOV (R331): 00 the user set, 11 the machine set (which of 1 and 2 is open); 01 and 10
have no meaning in the source (entry 28). -/
def moveSetOf (code : BitVec 2) : Option RegSet :=
  match code with
  | 0 => some .set0
  | 3 => some (if Config.machineSetIsBios then .set2 else .set1)
  | _ => none

/-- The effect of the inter-register-set MOV (R331), which no instruction word decodes to (30_encoding.md R133, entry 28). R331
says that it is "not available to the user operating level" and names nothing that happens there: in user mode it stops as the
machine-only instructions of R319 do (DESIGN CHOICE, entry 28). -/
def moveBetweenSets (dst src : RegSet) (rd rs1 : Reg) (s : State) : Result :=
  machineOnly s (.next (s.setX dst rd (s.xval src rs1)).advance)

/-- A row that has an encoding and no description (R332, R349, entry 27). -/
def undescribed (mnemonic : String) (s : State) : Result := machineOnly s (.refused (.undescribedInstruction mnemonic))

/-- PALLOC (R335): not described. -/
def execPalloc (_rd : Reg) (s : State) : Result := undescribed "PALLOC" s

/-- PFREE (R336): not described. -/
def execPfree (_rs1 : Reg) (s : State) : Result := undescribed "PFREE" s

/-- PFREEALL (R337): not described. -/
def execPfreeall (s : State) : Result := undescribed "PFREEALL" s

/-- SETTO (R338): not described. -/
def execSetto (_rs1 : Reg) (_rs2 : Reg) (s : State) : Result := undescribed "SETTO" s

/-- GETTO (R339): not described. -/
def execGetto (_rd : Reg) (_rs1 : Reg) (s : State) : Result := undescribed "GETTO" s

/-- GETZL (R340): not described. -/
def execGetzl (_rd : Reg) (s : State) : Result := undescribed "GETZL" s

/-- DECTO (R341): not described. -/
def execDecto (s : State) : Result := undescribed "DECTO" s

/-- INSRDY (R342): not described. -/
def execInsrdy (_rs1 : Reg) (_rs2 : Reg) (s : State) : Result := undescribed "INSRDY" s

/-- RMVRDY (R343): not described. -/
def execRmvrdy (_rs1 : Reg) (s : State) : Result := undescribed "RMVRDY" s

/-- GETRDY (R344): not described. -/
def execGetrdy (_rd : Reg) (_rs1 : Reg) (s : State) : Result := undescribed "GETRDY" s

/-- INSIOF (R345): not described. -/
def execInsiof (_rs1 : Reg) (s : State) : Result := undescribed "INSIOF" s

/-- RMVIOF (R346): not described. -/
def execRmviof (_rs1 : Reg) (s : State) : Result := undescribed "RMVIOF" s

/-- NXTIOF (R347): not described. -/
def execNxtiof (_rd : Reg) (s : State) : Result := undescribed "NXTIOF" s

/-- PRVIOF (R348): not described. -/
def execPrviof (_rd : Reg) (s : State) : Result := undescribed "PRVIOF" s

/-- LxX (R350): not described. -/
def execLxx (_rd : Reg) (_rs1 : Reg) (_rs3 : Reg) (_sc : BitVec 2) (_f3l : BitVec 5) (s : State) : Result := undescribed "LxX" s

/-- SxX (R351): not described. -/
def execSxx (_rs2 : Reg) (_rs1 : Reg) (_rs3 : Reg) (_sc : BitVec 2) (_f3s : BitVec 5) (s : State) : Result := undescribed "SxX" s

end Sys2Proof.Machine
end

