-- ==== Sys2Proof/Machine/Flags.lean ====
section
/-! DEFINITION. The binary32 classes (43_floating_point.md R250), the flag definitions of R252, and the results and flags of
the floating-point operations: the configuration's functions held to what the spec promises of them (R253 to R261). There
are no integer flags (10_state.md R38). -/

namespace Sys2Proof.Machine

/-- Exponent, bits 30..23 (R250). -/
def fpExponent (p : Tetra) : BitVec 8 := p.extractLsb' 23 8

/-- Mantissa, bits 22..0 (R250). -/
def fpMantissa (p : Tetra) : BitVec 23 := p.extractLsb' 0 23

/-- "Nan": exponent all ones with a non-zero mantissa (R250). -/
def isNaN (p : Tetra) : Bool := fpExponent p == 0xFF && fpMantissa p != 0

/-- "the exponents is all ones and the mantissa is zero" (R252 `of`). -/
def isInfinite (p : Tetra) : Bool := fpExponent p == 0xFF && fpMantissa p == 0

/-- "a de-normal number having an exponent of zero" (R252 `uf`); zero is not one (entry 14). -/
def isDenormal (p : Tetra) : Bool := fpExponent p == 0 && fpMantissa p != 0

/-- Plus or minus zero. -/
def isZero (p : Tetra) : Bool := fpExponent p == 0 && fpMantissa p == 0

/-- A negative number: sign set, not zero, not a NaN (R261). -/
def isNegative (p : Tetra) : Bool := p.msb && !isZero p && !isNaN p

/-- An integer in the order of `val(p)` for patterns that are not NaN: magnitude with sign, both zeros 0 (R265 to R267). -/
def fpKey (p : Tetra) : Int :=
  if p.msb then -((p.extractLsb' 0 31).toNat : Int) else ((p.extractLsb' 0 31).toNat : Int)

/-- The magnitude of a finite pattern in units of 2^-149: the mantissa for exponent 0, else the mantissa with its hidden bit,
shifted (binary32, R250 (d)). -/
def fpMagnitude (p : Tetra) : Nat :=
  if fpExponent p = 0 then (fpMantissa p).toNat
  else (2 ^ 23 + (fpMantissa p).toNat) * 2 ^ ((fpExponent p).toNat - 1)

/-- The pattern with a sign whose magnitude is `n` units of 2^-149, where there is one (R250 (d)): the top 24 bits of `n` as
exponent and mantissa. -/
def fpPattern (sign : Bool) (n : Nat) : Tetra :=
  let shift := n.log2 - 23
  joinBits 32 (BitVec.ofBool sign) (BitVec.ofNat 31 (shift * 2 ^ 23 + n / 2 ^ shift))

/-- A number with a sign: `n` or `-n`. -/
def signed (sign : Bool) (n : Nat) : Int := if sign then -(n : Int) else (n : Int)

/-- The value of the pattern is the integer `z` (R250 (d)). -/
def fpIsInteger (p : Tetra) (z : Int) : Bool :=
  fpExponent p != 0xFF && signed p.msb (fpMagnitude p) == z * 2 ^ 149

/-- The condition of FEQ (R265). -/
def fpEqual (a b : Tetra) : Bool := !isNaN a && !isNaN b && fpKey a == fpKey b

/-- The condition of FLT (R266). -/
def fpLess (a b : Tetra) : Bool := !isNaN a && !isNaN b && decide (fpKey a < fpKey b)

/-- The condition of FLE (R267). -/
def fpLessEqual (a b : Tetra) : Bool := !isNaN a && !isNaN b && decide (fpKey a ≤ fpKey b)

/-- `{nv, dz, of, uf, nx}` (10_state.md R41). -/
def packFlags (nv dz ov uf nx : Bool) : BitVec 5 :=
  joinBits 5 (joinBits 4 (joinBits 3 (joinBits 2 (BitVec.ofBool nv) (BitVec.ofBool dz)) (BitVec.ofBool ov))
    (BitVec.ofBool uf)) (BitVec.ofBool nx)

/-- Some NaN: the pattern itself if it is one, else the pattern made one (R254: which NaN is not stated). -/
def someNaN (p : Tetra) : Tetra := if isNaN p then p else p ||| 0x7F800001

/-- "If either operand is a Nan then the result is a Nan" (R254). -/
def nanRule (a b r : Tetra) : Tetra := if isNaN a || isNaN b then someNaN r else r

/-- The flags of FADD, FSUB, FMUL, FDIV: `of` and `uf` as R252 defines them of the result, `nx` free, `dz` as given, never
`nv`. -/
def arithFlags (dz nx : Bool) (r : Tetra) : BitVec 5 := packFlags false dz (isInfinite r) (isDenormal r) nx

/-- `cfg.fp_add` (R255): result and flags. -/
def fpAdd (m : RoundingMode) (a b : Tetra) : Tetra × BitVec 5 :=
  let r := nanRule a b (Config.fpAdd m a b)
  (r, arithFlags false (Config.fpAddInexact m a b) r)

/-- `cfg.fp_sub` (R256). -/
def fpSub (m : RoundingMode) (a b : Tetra) : Tetra × BitVec 5 :=
  let r := nanRule a b (Config.fpSub m a b)
  (r, arithFlags false (Config.fpSubInexact m a b) r)

/-- `cfg.fp_mul` (R257). -/
def fpMul (m : RoundingMode) (a b : Tetra) : Tetra × BitVec 5 :=
  let r := nanRule a b (Config.fpMul m a b)
  (r, arithFlags false (Config.fpMulInexact m a b) r)

/-- `cfg.fp_div` (R258): `dz` when the divisor is plus or minus zero. -/
def fpDiv (m : RoundingMode) (a b : Tetra) : Tetra × BitVec 5 :=
  let r := nanRule a b (Config.fpDiv m a b)
  (r, arithFlags (isZero b) (Config.fpDivInexact m a b) r)

/-- `cfg.fp_min` (R259): the smaller operand; free where neither is the smaller and they differ, or one is a NaN. -/
def fpMin (a b : Tetra) : Tetra :=
  if fpLess a b then a
  else if fpLess b a then b
  else if a == b && !isNaN a then a
  else Config.fpMin a b

/-- `cfg.fp_max` (R260): the larger operand; free otherwise, as FMIN. -/
def fpMax (a b : Tetra) : Tetra :=
  if fpLess b a then a
  else if fpLess a b then b
  else if a == b && !isNaN a then a
  else Config.fpMax a b

/-- FSQRT's flags (R261): `dz` for a zero operand, `nv` for a negative one; for an operand with the sign set that is no
negative number, and for `of`, `uf`, `nx`, the configuration's (entry 16). -/
def sqrtFlags (m : RoundingMode) (a : Tetra) : BitVec 5 :=
  let fl := Config.fpSqrtFlags m a
  packFlags (a.msb && (isNegative a || fl.getLsbD 4)) (isZero a) (fl.getLsbD 2) (fl.getLsbD 1) (fl.getLsbD 0)

/-- The integer square root, rounded down, of a number below 4^`k`. -/
def rootDown : Nat → Nat → Nat
  | 0, _ => 0
  | k + 1, n =>
    let r := 2 * rootDown k (n / 4)
    if (r + 1) * (r + 1) ≤ n then r + 1 else r

/-- The value of `r` is the square root of that of `a`, a positive number. -/
def fpIsRoot (a r : Tetra) : Bool :=
  fpExponent a != 0xFF && fpExponent r != 0xFF && !a.msb && !r.msb && fpMagnitude a != 0 &&
    fpMagnitude r * fpMagnitude r == fpMagnitude a * 2 ^ 149

/-- The pattern that is the exact square root of `a`, if there is one. -/
def exactRoot (a : Tetra) : Tetra := fpPattern false (rootDown 220 (fpMagnitude a * 2 ^ 149))

/-- `cfg.fp_sqrt` (R261), held to the mnemonic (decision D16): the square root of a positive number where some pattern is exactly
that; every other result is free (entry 16). -/
def fpSqrt (m : RoundingMode) (a : Tetra) : Tetra × BitVec 5 :=
  (if fpIsRoot a (exactRoot a) then exactRoot a else Config.fpSqrt m a, sqrtFlags m a)

/-! ## Conversions (43_floating_point.md R268 to R271), held to their mnemonics (decision D16, entry 17) -/

/-- The integer a pattern's value is, rounded toward zero where it is none. -/
def fpTruncated (p : Tetra) : Int := signed p.msb (fpMagnitude p / 2 ^ 149)

/-- `v` with bits 31..0 the integer that the pattern's value is, where it is one of `lo` to `hi`; else `v`. -/
def heldInteger (lo hi : Int) (p : Tetra) (v : Word) : Word :=
  if fpIsInteger p (fpTruncated p) ∧ lo ≤ fpTruncated p ∧ fpTruncated p ≤ hi then
    joinBits 64 (v.extractLsb' 32 32) (BitVec.ofInt 32 (fpTruncated p))
  else v

/-- `cfg.fcvt_w_s` (R268): the integer itself where the operand is one of the signed 32-bit integers; rounding, other operands
and bits 63..32 are open. -/
def fcvtWS (m : RoundingMode) (p : Tetra) : Word := heldInteger (-2 ^ 31) (2 ^ 31 - 1) p (Config.fcvtWS m p)

/-- `cfg.fcvt_wu_s` (R269): likewise for the unsigned 32-bit integers. -/
def fcvtWUS (m : RoundingMode) (p : Tetra) : Word := heldInteger 0 (2 ^ 32 - 1) p (Config.fcvtWUS m p)

/-- The pattern that is the integer `z`, if there is one; which zero stays open. -/
def heldPattern (z : Int) (r : Tetra) : Tetra :=
  if fpIsInteger r z then r
  else
    let exact := fpPattern (decide (z < 0)) (z.natAbs * 2 ^ 149)
    if fpIsInteger exact z then exact else r

/-- `cfg.fcvt_s_w` (R270): the pattern whose value is the signed 32-bit integer in bits 31..0, where there is one; whether bits
63..32 matter is open, so this is promised where they extend the sign. -/
def fcvtSW (m : RoundingMode) (a : Word) : Tetra :=
  if a = sext64 (a.extractLsb' 0 32) then heldPattern (a.extractLsb' 0 32).toInt (Config.fcvtSW m a) else Config.fcvtSW m a

/-- `cfg.fcvt_s_wu` (R271): likewise for the unsigned integer, where bits 63..32 are zero. -/
def fcvtSWU (m : RoundingMode) (a : Word) : Tetra :=
  if a = zext64 (a.extractLsb' 0 32) then heldPattern (a.extractLsb' 0 32).toNat (Config.fcvtSWU m a) else Config.fcvtSWU m a

end Sys2Proof.Machine
end

