-- ==== Sys2Proof/Machine/Float.lean ====
section
/-! DEFINITION. Floating-point instructions (43_floating_point.md R250 to R274): 32-bit values in bits 31..0, accrued flags,
no trap, `pc <- pc + 4`. -/

namespace Sys2Proof.Machine

/-- `f[frd] <- {draw_32(), r}; fflags <- fflags | fl` (R253). -/
def finishF (frd : Reg) (r : Tetra) (fl : BitVec 5) (s : State) : Result := .next ((s.setF frd r).accrue fl).advance

/-- An instruction with a rounding mode and two floating-point operands (R253). -/
def fpBinary (op : RoundingMode → Tetra → Tetra → Tetra × BitVec 5) (frd frs1 frs2 : Reg) (rm : BitVec 3) (s : State) :
    Result :=
  orFault (roundingMode rm s) fun m =>
    finishF frd (op m (s.fsingle frs1) (s.fsingle frs2)).1 (op m (s.fsingle frs1) (s.fsingle frs2)).2 s

/-- `{sign, a[30:0]}` (R262). -/
def withSign (sign : Bool) (a : Tetra) : Tetra := joinBits 32 (BitVec.ofBool sign) (a.extractLsb' 0 31)

/-- A result in bits 31..0 without flags (R262 to R264, R274). -/
def moveF (frd : Reg) (r : Tetra) (s : State) : Result := .next (s.setF frd r).advance

/-- A comparison: one or zero in an integer register (R265 to R267). -/
def fpCompare (c : Tetra → Tetra → Bool) (rd frs1 frs2 : Reg) (s : State) : Result :=
  finishX rd (if c (s.fsingle frs1) (s.fsingle frs2) then 1 else 0) s

/-- A conversion to an integer register (R268, R269). -/
def fpToInteger (value : RoundingMode → Tetra → Word) (flags : RoundingMode → Tetra → BitVec 5) (rd frs1 : Reg)
    (rm : BitVec 3) (s : State) : Result :=
  orFault (roundingMode rm s) fun m =>
    finishX rd (value m (s.fsingle frs1)) (s.accrue (flags m (s.fsingle frs1)))

/-- A conversion from an integer register (R270, R271). -/
def fpFromInteger (value : RoundingMode → Word → Tetra) (flags : RoundingMode → Word → BitVec 5) (frd rs1 : Reg)
    (rm : BitVec 3) (s : State) : Result :=
  orFault (roundingMode rm s) fun m => orFault (readX .rs1 rs1 s) fun a => finishF frd (value m a) (flags m a) s

/-- FADD (R255). -/
def execFadd (frd frs1 frs2 : Reg) (rm : BitVec 3) (s : State) : Result := fpBinary fpAdd frd frs1 frs2 rm s

/-- FSUB, Rs1 minus Rs2 (R256). -/
def execFsub (frd frs1 frs2 : Reg) (rm : BitVec 3) (s : State) : Result := fpBinary fpSub frd frs1 frs2 rm s

/-- FMUL (R257). -/
def execFmul (frd frs1 frs2 : Reg) (rm : BitVec 3) (s : State) : Result := fpBinary fpMul frd frs1 frs2 rm s

/-- FDIV, Rs1 divided by Rs2 (R258). -/
def execFdiv (frd frs1 frs2 : Reg) (rm : BitVec 3) (s : State) : Result := fpBinary fpDiv frd frs1 frs2 rm s

/-- FMIN (R259, entry 15). -/
def execFmin (frd frs1 frs2 : Reg) (s : State) : Result :=
  finishF frd (fpMin (s.fsingle frs1) (s.fsingle frs2)) (Config.fpMinFlags (s.fsingle frs1) (s.fsingle frs2)) s

/-- FMAX (R260, entry 15). -/
def execFmax (frd frs1 frs2 : Reg) (s : State) : Result :=
  finishF frd (fpMax (s.fsingle frs1) (s.fsingle frs2)) (Config.fpMaxFlags (s.fsingle frs1) (s.fsingle frs2)) s

/-- FSQRT (R261, entry 16). -/
def execFsqrt (frd frs1 : Reg) (rm : BitVec 3) (s : State) : Result :=
  orFault (roundingMode rm s) fun m =>
    finishF frd (fpSqrt m (s.fsingle frs1)).1 (fpSqrt m (s.fsingle frs1)).2 s

/-- FSGNJ (R262). -/
def execFsgnj (frd frs1 frs2 : Reg) (s : State) : Result :=
  moveF frd (withSign (s.fsingle frs2).msb (s.fsingle frs1)) s

/-- FSGNJN (R263). -/
def execFsgnjn (frd frs1 frs2 : Reg) (s : State) : Result :=
  moveF frd (withSign (!(s.fsingle frs2).msb) (s.fsingle frs1)) s

/-- FSGNJX (R264). -/
def execFsgnjx (frd frs1 frs2 : Reg) (s : State) : Result :=
  moveF frd (withSign ((s.fsingle frs1).msb ^^ (s.fsingle frs2).msb) (s.fsingle frs1)) s

/-- FEQ (R265). -/
def execFeq (rd frs1 frs2 : Reg) (s : State) : Result := fpCompare fpEqual rd frs1 frs2 s

/-- FLT (R266). -/
def execFlt (rd frs1 frs2 : Reg) (s : State) : Result := fpCompare fpLess rd frs1 frs2 s

/-- FLE (R267). -/
def execFle (rd frs1 frs2 : Reg) (s : State) : Result := fpCompare fpLessEqual rd frs1 frs2 s

/-- FCVT.W.S (R268, entry 17). -/
def execFcvtWS (rd frs1 : Reg) (rm : BitVec 3) (s : State) : Result :=
  fpToInteger fcvtWS Config.fcvtWSFlags rd frs1 rm s

/-- FCVT.WU.S (R269, entry 17). -/
def execFcvtWUS (rd frs1 : Reg) (rm : BitVec 3) (s : State) : Result :=
  fpToInteger fcvtWUS Config.fcvtWUSFlags rd frs1 rm s

/-- FCVT.S.W (R270, entry 17). -/
def execFcvtSW (frd rs1 : Reg) (rm : BitVec 3) (s : State) : Result :=
  fpFromInteger fcvtSW Config.fcvtSWFlags frd rs1 rm s

/-- FCVT.S.WU (R271, entry 17). -/
def execFcvtSWU (frd rs1 : Reg) (rm : BitVec 3) (s : State) : Result :=
  fpFromInteger fcvtSWU Config.fcvtSWUFlags frd rs1 rm s

/-- FMV.X.S (R272): bits 31..0 exact, bits 63..32 a draw (entry 18). -/
def execFmvXS (rd frs1 : Reg) (s : State) : Result :=
  finishX rd (joinBits 64 (s.drawn.extractLsb' 0 32) (s.fsingle frs1)) s.afterDraw

/-- FCLASS (R273, entry 17). -/
def execFclass (rd frs1 : Reg) (s : State) : Result := finishX rd (Config.fclass (s.fsingle frs1)) s

/-- FMV.S.X (R274). -/
def execFmvSX (frd rs1 : Reg) (s : State) : Result :=
  orFault (readX .rs1 rs1 s) fun a => moveF frd (a.extractLsb' 0 32) s

/-- FMOV, the spelling of FSGNJ FRd, FRs1, FRs1 (R262): a plain copy. -/
def execFmov (frd frs1 : Reg) (s : State) : Result := moveF frd (s.fsingle frs1) s

/-- FNEG, the spelling of FSGNJN FRd, FRs1, FRs1 (R263): the sign flipped. -/
def execFneg (frd frs1 : Reg) (s : State) : Result := moveF frd (s.fsingle frs1 ^^^ 0x80000000) s

/-- FABS, the spelling of FSGNJX FRd, FRs1, FRs1 (R264): the sign cleared. -/
def execFabs (frd frs1 : Reg) (s : State) : Result := moveF frd (s.fsingle frs1 &&& 0x7FFFFFFF) s

end Sys2Proof.Machine
end

