-- ==== Sys2Proof/Machine/Integer.lean ====
section
/-! DEFINITION. Integer instructions (40_integer.md R160 to R185): operands read before the destination is written, no flag,
no exception, `pc <- pc + 4`. -/

namespace Sys2Proof.Machine

/-- `x[rd] <- f(x[rs1])` (R160). -/
def regImm (rd rs1 : Reg) (f : Word → Word) (s : State) : Result :=
  orFault (readX .rs1 rs1 s) fun a => finishX rd (f a) s

/-- `x[rd] <- f(x[rs1], x[rs2])` (R160). -/
def regReg (rd rs1 rs2 : Reg) (f : Word → Word → Word) (s : State) : Result :=
  orFault (readX .rs1 rs1 s) fun a => orFault (readX .rs2 rs2 s) fun b => finishX rd (f a b) s

/-- `if c then 1 else 0` as a 64-bit result (R164). -/
def boolWord (c : Bool) : Word := if c then 1 else 0

/-- LUI (R161). -/
def execLui (rd : Reg) (imm : BitVec 20) (s : State) : Result := finishX rd (upperImmediate imm) s

/-- AUIPC (R162, 90_conflicts.md C10; entry 35). -/
def execAuipc (rd : Reg) (imm : BitVec 20) (s : State) : Result := finishX rd (s.pc + upperImmediate imm) s

/-- ADDI (R163). -/
def execAddi (rd rs1 : Reg) (imm : BitVec 12) (s : State) : Result := regImm rd rs1 (fun a => a + sext64 imm) s

/-- SLTI (R164). -/
def execSlti (rd rs1 : Reg) (imm : BitVec 12) (s : State) : Result :=
  regImm rd rs1 (fun a => boolWord (a.slt (sext64 imm))) s

/-- SLTUI (R165; entry 31). -/
def execSltui (rd rs1 : Reg) (imm : BitVec 12) (s : State) : Result :=
  regImm rd rs1 (fun a => boolWord (a.ult (sext64 imm))) s

/-- XORI (R166). -/
def execXori (rd rs1 : Reg) (imm : BitVec 12) (s : State) : Result := regImm rd rs1 (fun a => a ^^^ sext64 imm) s

/-- ORI (R167). -/
def execOri (rd rs1 : Reg) (imm : BitVec 12) (s : State) : Result := regImm rd rs1 (fun a => a ||| sext64 imm) s

/-- ANDI (R168). -/
def execAndi (rd rs1 : Reg) (imm : BitVec 12) (s : State) : Result := regImm rd rs1 (fun a => a &&& sext64 imm) s

/-- SLLI (R169). -/
def execSlli (rd rs1 : Reg) (shamt : BitVec 6) (s : State) : Result := regImm rd rs1 (fun a => a <<< shamt.toNat) s

/-- SRLI (R170). -/
def execSrli (rd rs1 : Reg) (shamt : BitVec 6) (s : State) : Result := regImm rd rs1 (fun a => a >>> shamt.toNat) s

/-- SRAI (R171). -/
def execSrai (rd rs1 : Reg) (shamt : BitVec 6) (s : State) : Result :=
  regImm rd rs1 (fun a => a.sshiftRight shamt.toNat) s

/-- ADD (R172). -/
def execAdd (rd rs1 rs2 : Reg) (s : State) : Result := regReg rd rs1 rs2 (fun a b => a + b) s

/-- SUB (R173; entry 31). -/
def execSub (rd rs1 rs2 : Reg) (s : State) : Result := regReg rd rs1 rs2 (fun a b => a - b) s

/-- MUL, the low 64 bits of the product (R174; entry 31). -/
def execMul (rd rs1 rs2 : Reg) (s : State) : Result := regReg rd rs1 rs2 (fun a b => a * b) s

/-- SLL (R175). -/
def execSll (rd rs1 rs2 : Reg) (s : State) : Result := regReg rd rs1 rs2 (fun a b => a <<< shiftCount b) s

/-- SLT (R176). -/
def execSlt (rd rs1 rs2 : Reg) (s : State) : Result := regReg rd rs1 rs2 (fun a b => boolWord (a.slt b)) s

/-- SLTU (R177; entry 31). -/
def execSltu (rd rs1 rs2 : Reg) (s : State) : Result := regReg rd rs1 rs2 (fun a b => boolWord (a.ult b)) s

/-- XOR (R178). -/
def execXor (rd rs1 rs2 : Reg) (s : State) : Result := regReg rd rs1 rs2 (fun a b => a ^^^ b) s

/-- SRL (R179). -/
def execSrl (rd rs1 rs2 : Reg) (s : State) : Result := regReg rd rs1 rs2 (fun a b => a >>> shiftCount b) s

/-- SRA (R180). -/
def execSra (rd rs1 rs2 : Reg) (s : State) : Result := regReg rd rs1 rs2 (fun a b => a.sshiftRight (shiftCount b)) s

/-- OR (R181). -/
def execOr (rd rs1 rs2 : Reg) (s : State) : Result := regReg rd rs1 rs2 (fun a b => a ||| b) s

/-- AND (R182). -/
def execAnd (rd rs1 rs2 : Reg) (s : State) : Result := regReg rd rs1 rs2 (fun a b => a &&& b) s

/-- NOP, the spelling of ADDI x0, x0, 0 (R163, 30_encoding.md R151): changes nothing but `pc`. -/
def execNop (s : State) : Result := .next s.advance

/-- LDI, the spelling of ORI Rd, x0, imm (R167): the constant into Rd. -/
def execLdi (rd : Reg) (imm : BitVec 12) (s : State) : Result := finishX rd (sext64 imm) s

/-- MOV, the spelling of OR Rd, Rs1, x0 (R181): Rs1 copied to Rd, each in the set its role selects. -/
def execMov (rd rs1 : Reg) (s : State) : Result := regImm rd rs1 (fun a => a) s

end Sys2Proof.Machine
end

