-- ==== Sys2Proof/Machine/LoadStore.lean ====
section
/-! DEFINITION. Loads and stores (42_memory_instructions.md R230 to R240): base register plus displacement, any alignment,
little-endian, no flag, no exception, `pc <- pc + 4`. -/

namespace Sys2Proof.Machine

/-- `MemRead(va, n)` at base plus displacement: the bytes and the state after the access (R230). -/
def loadFrom (rs1 : Reg) (imm : BitVec 12) (n : Nat) (s : State) : Except Fault (List Byte × State) :=
  match readX .rs1 rs1 s with
  | .ok a => memRead (effectiveAddress a imm) n s
  | .error f => .error f

/-- An integer load; Rd = 0 performs the read and discards the value (R231). -/
def loadX (rd rs1 : Reg) (imm : BitVec 12) (n : Nat) (value : List Byte → Word) (s : State) : Result :=
  orFault (loadFrom rs1 imm n s) fun r => finishX rd (value r.1) r.2

/-- `MemWrite(va, n, v)` at base plus displacement, then the next instruction (R230). -/
def storeAt (base : Word) (imm : BitVec 12) (bytes : List Byte) (s : State) : Result :=
  orFault (memWrite (effectiveAddress base imm) bytes s) fun t => .next t.advance

/-- An integer store of the low `n` bytes of Rs2 (R237 to R239). -/
def storeX (rs2 rs1 : Reg) (imm : BitVec 12) (n : Nat) (s : State) : Result :=
  orFault (readX .rs1 rs1 s) fun a => orFault (readX .rs2 rs2 s) fun b => storeAt a imm (leBytes b n) s

/-- LB (R231). -/
def execLb (rd rs1 : Reg) (imm : BitVec 12) (s : State) : Result := loadX rd rs1 imm 1 (fun b => sext64 (leValue 8 b)) s

/-- LH (R232). -/
def execLh (rd rs1 : Reg) (imm : BitVec 12) (s : State) : Result := loadX rd rs1 imm 2 (fun b => sext64 (leValue 16 b)) s

/-- LW (R233; `LW_EXTEND`, entry 21). -/
def execLw (rd rs1 : Reg) (imm : BitVec 12) (s : State) : Result :=
  loadX rd rs1 imm 4 (fun b => extendTetra (leValue 32 b)) s

/-- LBU (R234). -/
def execLbu (rd rs1 : Reg) (imm : BitVec 12) (s : State) : Result := loadX rd rs1 imm 1 (fun b => zext64 (leValue 8 b)) s

/-- LHU (R235). -/
def execLhu (rd rs1 : Reg) (imm : BitVec 12) (s : State) : Result := loadX rd rs1 imm 2 (fun b => zext64 (leValue 16 b)) s

/-- FLW (R236): no conversion, no flag. -/
def execFlw (frd rs1 : Reg) (imm : BitVec 12) (s : State) : Result :=
  orFault (loadFrom rs1 imm 4 s) fun r => .next (r.2.setF frd (leValue 32 r.1)).advance

/-- SB (R237). -/
def execSb (rs2 rs1 : Reg) (imm : BitVec 12) (s : State) : Result := storeX rs2 rs1 imm 1 s

/-- SH (R238). -/
def execSh (rs2 rs1 : Reg) (imm : BitVec 12) (s : State) : Result := storeX rs2 rs1 imm 2 s

/-- SW (R239). -/
def execSw (rs2 rs1 : Reg) (imm : BitVec 12) (s : State) : Result := storeX rs2 rs1 imm 4 s

/-- FSW (R240). -/
def execFsw (frs2 rs1 : Reg) (imm : BitVec 12) (s : State) : Result :=
  orFault (readX .rs1 rs1 s) fun a => storeAt a imm (leBytes (s.fsingle frs2) 4) s

end Sys2Proof.Machine
end

