-- ==== Sys2Proof/Syntax.lean ====
section
/-! DEFINITION. The instructions of Petajon: one constructor for each row of spec/opcode_table.json
(30_encoding.md R122 to R132), then the eleven assembler spellings (R151, R152).

Fields are held as the encoding holds them: `off : BitVec 20` of JAL is imm[20:1], `off : BitVec 12` of a branch is
imm[12:1] (bit 0 is not encoded, R137, R139), `imm : BitVec 20` of LUI and AUIPC is imm[31:12] (R138). -/

namespace Sys2Proof

/-- One constructor per row of the opcode table, in the table's order. -/
inductive Instr where
  /-- LUI, R161. -/
  | lui (rd : Reg) (imm : BitVec 20)
  /-- AUIPC, R162. -/
  | auipc (rd : Reg) (imm : BitVec 20)
  /-- JAL, R201. -/
  | jal (rd : Reg) (off : BitVec 20)
  /-- JALR, R202. -/
  | jalr (rd rs1 : Reg) (imm : BitVec 12)
  /-- BEQ, R203. -/
  | beq (rs1 rs2 : Reg) (off : BitVec 12)
  /-- BNE, R204. -/
  | bne (rs1 rs2 : Reg) (off : BitVec 12)
  /-- BLT, R205. -/
  | blt (rs1 rs2 : Reg) (off : BitVec 12)
  /-- BGE, R206. -/
  | bge (rs1 rs2 : Reg) (off : BitVec 12)
  /-- BLTU, R207. -/
  | bltu (rs1 rs2 : Reg) (off : BitVec 12)
  /-- BGEU, R208. -/
  | bgeu (rs1 rs2 : Reg) (off : BitVec 12)
  /-- LB, R231. -/
  | lb (rd rs1 : Reg) (imm : BitVec 12)
  /-- LH, R232. -/
  | lh (rd rs1 : Reg) (imm : BitVec 12)
  /-- LW, R233. -/
  | lw (rd rs1 : Reg) (imm : BitVec 12)
  /-- LBU, R234. -/
  | lbu (rd rs1 : Reg) (imm : BitVec 12)
  /-- LHU, R235. -/
  | lhu (rd rs1 : Reg) (imm : BitVec 12)
  /-- FLW, R236. -/
  | flw (frd rs1 : Reg) (imm : BitVec 12)
  /-- SB, R237. -/
  | sb (rs2 rs1 : Reg) (imm : BitVec 12)
  /-- SH, R238. -/
  | sh (rs2 rs1 : Reg) (imm : BitVec 12)
  /-- SW, R239. -/
  | sw (rs2 rs1 : Reg) (imm : BitVec 12)
  /-- FSW, R240. -/
  | fsw (frs2 rs1 : Reg) (imm : BitVec 12)
  /-- ADDI, R163. -/
  | addi (rd rs1 : Reg) (imm : BitVec 12)
  /-- SLTI, R164. -/
  | slti (rd rs1 : Reg) (imm : BitVec 12)
  /-- SLTUI, R165. -/
  | sltui (rd rs1 : Reg) (imm : BitVec 12)
  /-- XORI, R166. -/
  | xori (rd rs1 : Reg) (imm : BitVec 12)
  /-- ORI, R167. -/
  | ori (rd rs1 : Reg) (imm : BitVec 12)
  /-- ANDI, R168. -/
  | andi (rd rs1 : Reg) (imm : BitVec 12)
  /-- SLLI, R169. -/
  | slli (rd rs1 : Reg) (shamt : BitVec 6)
  /-- SRLI, R170. -/
  | srli (rd rs1 : Reg) (shamt : BitVec 6)
  /-- SRAI, R171. -/
  | srai (rd rs1 : Reg) (shamt : BitVec 6)
  /-- ADD, R172. -/
  | add (rd rs1 rs2 : Reg)
  /-- SUB, R173. -/
  | sub (rd rs1 rs2 : Reg)
  /-- MUL, R174. -/
  | mul (rd rs1 rs2 : Reg)
  /-- SLL, R175. -/
  | sll (rd rs1 rs2 : Reg)
  /-- SLT, R176. -/
  | slt (rd rs1 rs2 : Reg)
  /-- SLTU, R177. -/
  | sltu (rd rs1 rs2 : Reg)
  /-- XOR, R178. -/
  | xor (rd rs1 rs2 : Reg)
  /-- SRL, R179. -/
  | srl (rd rs1 rs2 : Reg)
  /-- SRA, R180. -/
  | sra (rd rs1 rs2 : Reg)
  /-- OR, R181. -/
  | or (rd rs1 rs2 : Reg)
  /-- AND, R182. -/
  | and (rd rs1 rs2 : Reg)
  /-- FADD, R255. -/
  | fadd (frd frs1 frs2 : Reg) (rm : BitVec 3)
  /-- FSUB, R256. -/
  | fsub (frd frs1 frs2 : Reg) (rm : BitVec 3)
  /-- FMUL, R257. -/
  | fmul (frd frs1 frs2 : Reg) (rm : BitVec 3)
  /-- FDIV, R258. -/
  | fdiv (frd frs1 frs2 : Reg) (rm : BitVec 3)
  /-- FMIN, R259. -/
  | fmin (frd frs1 frs2 : Reg)
  /-- FMAX, R260. -/
  | fmax (frd frs1 frs2 : Reg)
  /-- FSQRT, R261. -/
  | fsqrt (frd frs1 : Reg) (rm : BitVec 3)
  /-- FSGNJ, R262. -/
  | fsgnj (frd frs1 frs2 : Reg)
  /-- FSGNJN, R263. -/
  | fsgnjn (frd frs1 frs2 : Reg)
  /-- FSGNJX, R264. -/
  | fsgnjx (frd frs1 frs2 : Reg)
  /-- FEQ, R265. -/
  | feq (rd frs1 frs2 : Reg)
  /-- FLT, R266. -/
  | flt (rd frs1 frs2 : Reg)
  /-- FLE, R267. -/
  | fle (rd frs1 frs2 : Reg)
  /-- FCVT.W.S, R268. -/
  | fcvt_w_s (rd frs1 : Reg) (rm : BitVec 3)
  /-- FCVT.WU.S, R269. -/
  | fcvt_wu_s (rd frs1 : Reg) (rm : BitVec 3)
  /-- FCVT.S.W, R270. -/
  | fcvt_s_w (frd rs1 : Reg) (rm : BitVec 3)
  /-- FCVT.S.WU, R271. -/
  | fcvt_s_wu (frd rs1 : Reg) (rm : BitVec 3)
  /-- FMV.X.S, R272. -/
  | fmv_x_s (rd frs1 : Reg)
  /-- FCLASS, R273. -/
  | fclass (rd frs1 : Reg)
  /-- FMV.S.X, R274. -/
  | fmv_s_x (frd rs1 : Reg)
  /-- FENCE, R209. -/
  | fence (pred succ : BitVec 4)
  /-- FENCE.I, R210. -/
  | fence_i
  /-- ECALL, R301. -/
  | ecall
  /-- EBREAK, R303. -/
  | ebreak
  /-- ERET, R302. -/
  | eret
  /-- WFI, R304. -/
  | wfi
  /-- PFI, R330. -/
  | pfi
  /-- RDCYCLE, R306. -/
  | rdcycle (rd : Reg)
  /-- RDCYCLEH, R307. -/
  | rdcycleh (rd : Reg)
  /-- RDTIME, R308. -/
  | rdtime (rd : Reg)
  /-- RDTIMEH, R309. -/
  | rdtimeh (rd : Reg)
  /-- RDINSTRET, R310. -/
  | rdinstret (rd : Reg)
  /-- RDINSTRETH, R312. -/
  | rdinstreth (rd : Reg)
  /-- CSRRW, R313. -/
  | csrrw (rd : Reg) (csr : BitVec 12) (rs1 : Reg)
  /-- CSRRS, R314. -/
  | csrrs (rd : Reg) (csr : BitVec 12) (rs1 : Reg)
  /-- CSRRC, R315. -/
  | csrrc (rd : Reg) (csr : BitVec 12) (rs1 : Reg)
  /-- CSRRWI, R316. -/
  | csrrwi (rd : Reg) (csr : BitVec 12) (zimm : BitVec 5)
  /-- CSRRSI, R317. -/
  | csrrsi (rd : Reg) (csr : BitVec 12) (zimm : BitVec 5)
  /-- CSRRCI, R318. -/
  | csrrci (rd : Reg) (csr : BitVec 12) (zimm : BitVec 5)
  /-- MVSEG, R333. -/
  | mvseg (rd rs1 rs2 : Reg)
  /-- MVMAP, R334. -/
  | mvmap (rd rs1 rs2 : Reg)
  /-- PALLOC, R335. -/
  | palloc (rd : Reg)
  /-- PFREE, R336. -/
  | pfree (rs1 : Reg)
  /-- PFREEALL, R337. -/
  | pfreeall
  /-- SETTO, R338. -/
  | setto (rs1 rs2 : Reg)
  /-- GETTO, R339. -/
  | getto (rd rs1 : Reg)
  /-- GETZL, R340. -/
  | getzl (rd : Reg)
  /-- DECTO, R341. -/
  | decto
  /-- INSRDY, R342. -/
  | insrdy (rs1 rs2 : Reg)
  /-- RMVRDY, R343. -/
  | rmvrdy (rs1 : Reg)
  /-- GETRDY, R344. -/
  | getrdy (rd rs1 : Reg)
  /-- INSIOF, R345. -/
  | insiof (rs1 : Reg)
  /-- RMVIOF, R346. -/
  | rmviof (rs1 : Reg)
  /-- NXTIOF, R347. -/
  | nxtiof (rd : Reg)
  /-- PRVIOF, R348. -/
  | prviof (rd : Reg)
  /-- LxX, R350. -/
  | lxx (rd rs1 rs3 : Reg) (sc : BitVec 2) (f3l : BitVec 5)
  /-- SxX, R351. -/
  | sxx (rs2 rs1 rs3 : Reg) (sc : BitVec 2) (f3s : BitVec 5)
  -- The rows marked alias_of: spellings of other instructions, never decoded to (R142).
  /-- CALL, an assembler spelling of `.jal 1 off` (R201, R151, R152). -/
  | call (off : BitVec 20)
  /-- RET, an assembler spelling of `.jalr 0 1 0` (R202, R151, R152). -/
  | ret
  /-- BRA, an assembler spelling of `.beq 0 0 off` (R203, R151, R152). -/
  | bra (off : BitVec 12)
  /-- BEQZ, an assembler spelling of `.beq rs1 0 off` (R203, R151, R152). -/
  | beqz (rs1 : Reg) (off : BitVec 12)
  /-- BLE, an assembler spelling of `.bge b a off` (R206, R151, R152). -/
  | ble (a b : Reg) (off : BitVec 12)
  /-- NOP, an assembler spelling of `.addi 0 0 0` (R163, R151, R152). -/
  | nop
  /-- LDI, an assembler spelling of `.ori rd 0 imm` (R167, R151, R152). -/
  | ldi (rd : Reg) (imm : BitVec 12)
  /-- MOV, an assembler spelling of `.or rd rs1 0` (R181, R151, R152). -/
  | mov (rd rs1 : Reg)
  /-- FMOV, an assembler spelling of `.fsgnj frd frs1 frs1` (R262, R151, R152). -/
  | fmov (frd frs1 : Reg)
  /-- FNEG, an assembler spelling of `.fsgnjn frd frs1 frs1` (R263, R151, R152). -/
  | fneg (frd frs1 : Reg)
  /-- FABS, an assembler spelling of `.fsgnjx frd frs1 frs1` (R264, R151, R152). -/
  | fabs (frd frs1 : Reg)
  deriving DecidableEq, Repr

end Sys2Proof
end

