-- ==== Sys2Proof/Machine/Dispatch.lean ====
section
/-! DEFINITION. The meaning of every instruction, one arm each. -/

namespace Sys2Proof.Machine

def exec (i : Instr) (s : State) : Host.Outcome State Fault Refusal :=
  match i with
  | .lui rd imm => Sys2Proof.Machine.execLui rd imm s
  | .auipc rd imm => Sys2Proof.Machine.execAuipc rd imm s
  | .jal rd off => Sys2Proof.Machine.execJal rd off s
  | .jalr rd rs1 imm => Sys2Proof.Machine.execJalr rd rs1 imm s
  | .beq rs1 rs2 off => Sys2Proof.Machine.execBeq rs1 rs2 off s
  | .bne rs1 rs2 off => Sys2Proof.Machine.execBne rs1 rs2 off s
  | .blt rs1 rs2 off => Sys2Proof.Machine.execBlt rs1 rs2 off s
  | .bge rs1 rs2 off => Sys2Proof.Machine.execBge rs1 rs2 off s
  | .bltu rs1 rs2 off => Sys2Proof.Machine.execBltu rs1 rs2 off s
  | .bgeu rs1 rs2 off => Sys2Proof.Machine.execBgeu rs1 rs2 off s
  | .lb rd rs1 imm => Sys2Proof.Machine.execLb rd rs1 imm s
  | .lh rd rs1 imm => Sys2Proof.Machine.execLh rd rs1 imm s
  | .lw rd rs1 imm => Sys2Proof.Machine.execLw rd rs1 imm s
  | .lbu rd rs1 imm => Sys2Proof.Machine.execLbu rd rs1 imm s
  | .lhu rd rs1 imm => Sys2Proof.Machine.execLhu rd rs1 imm s
  | .flw frd rs1 imm => Sys2Proof.Machine.execFlw frd rs1 imm s
  | .sb rs2 rs1 imm => Sys2Proof.Machine.execSb rs2 rs1 imm s
  | .sh rs2 rs1 imm => Sys2Proof.Machine.execSh rs2 rs1 imm s
  | .sw rs2 rs1 imm => Sys2Proof.Machine.execSw rs2 rs1 imm s
  | .fsw frs2 rs1 imm => Sys2Proof.Machine.execFsw frs2 rs1 imm s
  | .addi rd rs1 imm => Sys2Proof.Machine.execAddi rd rs1 imm s
  | .slti rd rs1 imm => Sys2Proof.Machine.execSlti rd rs1 imm s
  | .sltui rd rs1 imm => Sys2Proof.Machine.execSltui rd rs1 imm s
  | .xori rd rs1 imm => Sys2Proof.Machine.execXori rd rs1 imm s
  | .ori rd rs1 imm => Sys2Proof.Machine.execOri rd rs1 imm s
  | .andi rd rs1 imm => Sys2Proof.Machine.execAndi rd rs1 imm s
  | .slli rd rs1 shamt => Sys2Proof.Machine.execSlli rd rs1 shamt s
  | .srli rd rs1 shamt => Sys2Proof.Machine.execSrli rd rs1 shamt s
  | .srai rd rs1 shamt => Sys2Proof.Machine.execSrai rd rs1 shamt s
  | .add rd rs1 rs2 => Sys2Proof.Machine.execAdd rd rs1 rs2 s
  | .sub rd rs1 rs2 => Sys2Proof.Machine.execSub rd rs1 rs2 s
  | .mul rd rs1 rs2 => Sys2Proof.Machine.execMul rd rs1 rs2 s
  | .sll rd rs1 rs2 => Sys2Proof.Machine.execSll rd rs1 rs2 s
  | .slt rd rs1 rs2 => Sys2Proof.Machine.execSlt rd rs1 rs2 s
  | .sltu rd rs1 rs2 => Sys2Proof.Machine.execSltu rd rs1 rs2 s
  | .xor rd rs1 rs2 => Sys2Proof.Machine.execXor rd rs1 rs2 s
  | .srl rd rs1 rs2 => Sys2Proof.Machine.execSrl rd rs1 rs2 s
  | .sra rd rs1 rs2 => Sys2Proof.Machine.execSra rd rs1 rs2 s
  | .or rd rs1 rs2 => Sys2Proof.Machine.execOr rd rs1 rs2 s
  | .and rd rs1 rs2 => Sys2Proof.Machine.execAnd rd rs1 rs2 s
  | .fadd frd frs1 frs2 rm => Sys2Proof.Machine.execFadd frd frs1 frs2 rm s
  | .fsub frd frs1 frs2 rm => Sys2Proof.Machine.execFsub frd frs1 frs2 rm s
  | .fmul frd frs1 frs2 rm => Sys2Proof.Machine.execFmul frd frs1 frs2 rm s
  | .fdiv frd frs1 frs2 rm => Sys2Proof.Machine.execFdiv frd frs1 frs2 rm s
  | .fmin frd frs1 frs2 => Sys2Proof.Machine.execFmin frd frs1 frs2 s
  | .fmax frd frs1 frs2 => Sys2Proof.Machine.execFmax frd frs1 frs2 s
  | .fsqrt frd frs1 rm => Sys2Proof.Machine.execFsqrt frd frs1 rm s
  | .fsgnj frd frs1 frs2 => Sys2Proof.Machine.execFsgnj frd frs1 frs2 s
  | .fsgnjn frd frs1 frs2 => Sys2Proof.Machine.execFsgnjn frd frs1 frs2 s
  | .fsgnjx frd frs1 frs2 => Sys2Proof.Machine.execFsgnjx frd frs1 frs2 s
  | .feq rd frs1 frs2 => Sys2Proof.Machine.execFeq rd frs1 frs2 s
  | .flt rd frs1 frs2 => Sys2Proof.Machine.execFlt rd frs1 frs2 s
  | .fle rd frs1 frs2 => Sys2Proof.Machine.execFle rd frs1 frs2 s
  | .fcvt_w_s rd frs1 rm => Sys2Proof.Machine.execFcvtWS rd frs1 rm s
  | .fcvt_wu_s rd frs1 rm => Sys2Proof.Machine.execFcvtWUS rd frs1 rm s
  | .fcvt_s_w frd rs1 rm => Sys2Proof.Machine.execFcvtSW frd rs1 rm s
  | .fcvt_s_wu frd rs1 rm => Sys2Proof.Machine.execFcvtSWU frd rs1 rm s
  | .fmv_x_s rd frs1 => Sys2Proof.Machine.execFmvXS rd frs1 s
  | .fclass rd frs1 => Sys2Proof.Machine.execFclass rd frs1 s
  | .fmv_s_x frd rs1 => Sys2Proof.Machine.execFmvSX frd rs1 s
  | .fence pred succ => Sys2Proof.Machine.execFence pred succ s
  | .fence_i => Sys2Proof.Machine.execFenceI s
  | .ecall => Sys2Proof.Machine.execEcall s
  | .ebreak => Sys2Proof.Machine.execEbreak s
  | .eret => Sys2Proof.Machine.execEret s
  | .wfi => Sys2Proof.Machine.execWfi s
  | .pfi => Sys2Proof.Machine.execPfi s
  | .rdcycle rd => Sys2Proof.Machine.execRdcycle rd s
  | .rdcycleh rd => Sys2Proof.Machine.execRdcycleh rd s
  | .rdtime rd => Sys2Proof.Machine.execRdtime rd s
  | .rdtimeh rd => Sys2Proof.Machine.execRdtimeh rd s
  | .rdinstret rd => Sys2Proof.Machine.execRdinstret rd s
  | .rdinstreth rd => Sys2Proof.Machine.execRdinstreth rd s
  | .csrrw rd csr rs1 => Sys2Proof.Machine.execCsrrw rd csr rs1 s
  | .csrrs rd csr rs1 => Sys2Proof.Machine.execCsrrs rd csr rs1 s
  | .csrrc rd csr rs1 => Sys2Proof.Machine.execCsrrc rd csr rs1 s
  | .csrrwi rd csr zimm => Sys2Proof.Machine.execCsrrwi rd csr zimm s
  | .csrrsi rd csr zimm => Sys2Proof.Machine.execCsrrsi rd csr zimm s
  | .csrrci rd csr zimm => Sys2Proof.Machine.execCsrrci rd csr zimm s
  | .mvseg rd rs1 rs2 => Sys2Proof.Machine.execMvseg rd rs1 rs2 s
  | .mvmap rd rs1 rs2 => Sys2Proof.Machine.execMvmap rd rs1 rs2 s
  | .palloc rd => Sys2Proof.Machine.execPalloc rd s
  | .pfree rs1 => Sys2Proof.Machine.execPfree rs1 s
  | .pfreeall => Sys2Proof.Machine.execPfreeall s
  | .setto rs1 rs2 => Sys2Proof.Machine.execSetto rs1 rs2 s
  | .getto rd rs1 => Sys2Proof.Machine.execGetto rd rs1 s
  | .getzl rd => Sys2Proof.Machine.execGetzl rd s
  | .decto => Sys2Proof.Machine.execDecto s
  | .insrdy rs1 rs2 => Sys2Proof.Machine.execInsrdy rs1 rs2 s
  | .rmvrdy rs1 => Sys2Proof.Machine.execRmvrdy rs1 s
  | .getrdy rd rs1 => Sys2Proof.Machine.execGetrdy rd rs1 s
  | .insiof rs1 => Sys2Proof.Machine.execInsiof rs1 s
  | .rmviof rs1 => Sys2Proof.Machine.execRmviof rs1 s
  | .nxtiof rd => Sys2Proof.Machine.execNxtiof rd s
  | .prviof rd => Sys2Proof.Machine.execPrviof rd s
  | .lxx rd rs1 rs3 sc f3l => Sys2Proof.Machine.execLxx rd rs1 rs3 sc f3l s
  | .sxx rs2 rs1 rs3 sc f3s => Sys2Proof.Machine.execSxx rs2 rs1 rs3 sc f3s s
  | .call off => Sys2Proof.Machine.execCall off s
  | .ret => Sys2Proof.Machine.execRet s
  | .bra off => Sys2Proof.Machine.execBra off s
  | .beqz rs1 off => Sys2Proof.Machine.execBeqz rs1 off s
  | .ble a b off => Sys2Proof.Machine.execBle a b off s
  | .nop => Sys2Proof.Machine.execNop s
  | .ldi rd imm => Sys2Proof.Machine.execLdi rd imm s
  | .mov rd rs1 => Sys2Proof.Machine.execMov rd rs1 s
  | .fmov frd frs1 => Sys2Proof.Machine.execFmov frd frs1 s
  | .fneg frd frs1 => Sys2Proof.Machine.execFneg frd frs1 s
  | .fabs frd frs1 => Sys2Proof.Machine.execFabs frd frs1 s

end Sys2Proof.Machine
end

