-- ==== Sys2Proof/WellFormed.lean ====
section
/-! DEFINITION. Which terms of Instr some word spells. Every field has the width of its place in the word, so one check
is left: CSRRW with Rs1 = x0 on a counter number has no word of its own, because the decoder reads that word as the
counter-read row (30_encoding.md R142, 90_conflicts.md C11). -/

namespace Sys2Proof

/-- The six CSR numbers that have a counter-read row (30_encoding.md R131). -/
def isCounterNumber (csr : BitVec 12) : Bool :=
  csr == 0xC00 || csr == 0xC80 || csr == 0xC01 || csr == 0xC81 || csr == 0xC02 || csr == 0xC82

/-- Some word decodes to the instruction (or, for an assembler spelling, to what it stands for). -/
def Instr.wf : Instr → Bool
  | .lui _ _ => true
  | .auipc _ _ => true
  | .jal _ _ => true
  | .jalr _ _ _ => true
  | .beq _ _ _ => true
  | .bne _ _ _ => true
  | .blt _ _ _ => true
  | .bge _ _ _ => true
  | .bltu _ _ _ => true
  | .bgeu _ _ _ => true
  | .lb _ _ _ => true
  | .lh _ _ _ => true
  | .lw _ _ _ => true
  | .lbu _ _ _ => true
  | .lhu _ _ _ => true
  | .flw _ _ _ => true
  | .sb _ _ _ => true
  | .sh _ _ _ => true
  | .sw _ _ _ => true
  | .fsw _ _ _ => true
  | .addi _ _ _ => true
  | .slti _ _ _ => true
  | .sltui _ _ _ => true
  | .xori _ _ _ => true
  | .ori _ _ _ => true
  | .andi _ _ _ => true
  | .slli _ _ _ => true
  | .srli _ _ _ => true
  | .srai _ _ _ => true
  | .add _ _ _ => true
  | .sub _ _ _ => true
  | .mul _ _ _ => true
  | .sll _ _ _ => true
  | .slt _ _ _ => true
  | .sltu _ _ _ => true
  | .xor _ _ _ => true
  | .srl _ _ _ => true
  | .sra _ _ _ => true
  | .or _ _ _ => true
  | .and _ _ _ => true
  | .fadd _ _ _ _ => true
  | .fsub _ _ _ _ => true
  | .fmul _ _ _ _ => true
  | .fdiv _ _ _ _ => true
  | .fmin _ _ _ => true
  | .fmax _ _ _ => true
  | .fsqrt _ _ _ => true
  | .fsgnj _ _ _ => true
  | .fsgnjn _ _ _ => true
  | .fsgnjx _ _ _ => true
  | .feq _ _ _ => true
  | .flt _ _ _ => true
  | .fle _ _ _ => true
  | .fcvt_w_s _ _ _ => true
  | .fcvt_wu_s _ _ _ => true
  | .fcvt_s_w _ _ _ => true
  | .fcvt_s_wu _ _ _ => true
  | .fmv_x_s _ _ => true
  | .fclass _ _ => true
  | .fmv_s_x _ _ => true
  | .fence _ _ => true
  | .fence_i => true
  | .ecall => true
  | .ebreak => true
  | .eret => true
  | .wfi => true
  | .pfi => true
  | .rdcycle _ => true
  | .rdcycleh _ => true
  | .rdtime _ => true
  | .rdtimeh _ => true
  | .rdinstret _ => true
  | .rdinstreth _ => true
  | .csrrw _ csr rs1 => !(rs1 == 0 && isCounterNumber csr)
  | .csrrs _ _ _ => true
  | .csrrc _ _ _ => true
  | .csrrwi _ _ _ => true
  | .csrrsi _ _ _ => true
  | .csrrci _ _ _ => true
  | .mvseg _ _ _ => true
  | .mvmap _ _ _ => true
  | .palloc _ => true
  | .pfree _ => true
  | .pfreeall => true
  | .setto _ _ => true
  | .getto _ _ => true
  | .getzl _ => true
  | .decto => true
  | .insrdy _ _ => true
  | .rmvrdy _ => true
  | .getrdy _ _ => true
  | .insiof _ => true
  | .rmviof _ => true
  | .nxtiof _ => true
  | .prviof _ => true
  | .lxx _ _ _ _ _ => true
  | .sxx _ _ _ _ _ => true
  | .call _ => true
  | .ret => true
  | .bra _ => true
  | .beqz _ _ => true
  | .ble _ _ _ => true
  | .nop => true
  | .ldi _ _ => true
  | .mov _ _ => true
  | .fmov _ _ => true
  | .fneg _ _ => true
  | .fabs _ _ => true

/-- Well-formedness as a proposition. -/
abbrev WellFormed (i : Instr) : Prop := i.wf = true

end Sys2Proof
end

