-- ==== Sys2Proof/Decode.lean ====
section
/-! DEFINITION. The decoder, total on 32-bit words (30_encoding.md R120 to R146), and the encoder beside it, both written
from the six columns of the format table (R121). -/

namespace Sys2Proof

open Sys2Proof.Machine (joinBits leValue leBytes)

/-- Bits 31..25 (R121). -/
def funct7Of (w : Tetra) : BitVec 7 := w.extractLsb' 25 7
/-- Bits 24..20 (R121). -/
def rs2Of (w : Tetra) : Reg := w.extractLsb' 20 5
/-- Bits 19..15 (R121). -/
def rs1Of (w : Tetra) : Reg := w.extractLsb' 15 5
/-- Bits 14..12 (R121). -/
def funct3Of (w : Tetra) : BitVec 3 := w.extractLsb' 12 3
/-- Bits 11..7 (R121). -/
def rdOf (w : Tetra) : Reg := w.extractLsb' 7 5
/-- Bits 6..0, the major opcode (R121, R141). -/
def opcodeOf (w : Tetra) : BitVec 7 := w.extractLsb' 0 7

/-- imm[11:0] of formats JALR, ML, RI, and a CSR number: bits 31..20 (R124, R131). -/
def immI (w : Tetra) : BitVec 12 := joinBits 12 (funct7Of w) (rs2Of w)
/-- imm[11:0] of format MS: bits 31..25, 11..7 (R126). -/
def immS (w : Tetra) : BitVec 12 := joinBits 12 (funct7Of w) (rdOf w)
/-- imm[12:1] of format BCC: bit 31, bit 7, bits 30..25, bits 11..8 (R125, R137). -/
def immB (w : Tetra) : BitVec 12 :=
  joinBits 12 (joinBits 2 ((funct7Of w).extractLsb' 6 1) ((rdOf w).extractLsb' 0 1))
    (joinBits 10 ((funct7Of w).extractLsb' 0 6) ((rdOf w).extractLsb' 1 4))
/-- imm[31:12] of format UI: bits 31..12 (R122). -/
def immU (w : Tetra) : BitVec 20 :=
  joinBits 20 (joinBits 12 (funct7Of w) (rs2Of w)) (joinBits 8 (rs1Of w) (funct3Of w))
/-- imm[20:1] of format JAL: bit 31, bits 19..12, bit 20, bits 30..21 (R123, R139). -/
def immJ (w : Tetra) : BitVec 20 :=
  joinBits 20
    (joinBits 10 (joinBits 9 ((funct7Of w).extractLsb' 6 1) (joinBits 8 (rs1Of w) (funct3Of w)))
      ((rs2Of w).extractLsb' 0 1))
    (joinBits 10 ((funct7Of w).extractLsb' 0 6) ((rs2Of w).extractLsb' 1 4))
/-- shamt[5:0]: bits 25..20 (R127, R140). -/
def shamtOf (w : Tetra) : BitVec 6 := joinBits 6 ((funct7Of w).extractLsb' 0 1) (rs2Of w)
/-- funct6 of the shift-immediate rows: bits 31..26 (R127). -/
def funct6Of (w : Tetra) : BitVec 6 := (funct7Of w).extractLsb' 1 6
/-- funct5 of the floating-point rows and Rs3 of the indexed rows: bits 31..27 (R129, R132). -/
def funct5Of (w : Tetra) : BitVec 5 := (funct7Of w).extractLsb' 2 5
/-- fmt of the floating-point rows and Sc of the indexed rows: bits 26..25 (R129, R132). -/
def fmtOf (w : Tetra) : BitVec 2 := (funct7Of w).extractLsb' 0 2

/-- Why a word is no instruction: it matches no row of the opcode table, fixed fields included (R143, R144). -/
inductive DecodeError where
  | unlistedEncoding
  deriving DecidableEq, Repr

/-- What the decoder answers. -/
abbrev Decoded := Except DecodeError Instr

/-- A row whose register or function cell is fixed at 0 (R144): listed only if `ok`. -/
def listedIf (ok : Bool) (i : Instr) : Decoded := if ok then .ok i else .error .unlistedEncoding

/-- Major opcode 3, loads (R124). -/
def decodeLoad (w : Tetra) : Decoded :=
  match funct3Of w with
  | 0 => .ok (.lb (rdOf w) (rs1Of w) (immI w))
  | 1 => .ok (.lh (rdOf w) (rs1Of w) (immI w))
  | 2 => .ok (.lw (rdOf w) (rs1Of w) (immI w))
  | 4 => .ok (.lbu (rdOf w) (rs1Of w) (immI w))
  | 5 => .ok (.lhu (rdOf w) (rs1Of w) (immI w))
  | _ => .error .unlistedEncoding

/-- Major opcode 35, stores (R126). -/
def decodeStore (w : Tetra) : Decoded :=
  match funct3Of w with
  | 0 => .ok (.sb (rs2Of w) (rs1Of w) (immS w))
  | 1 => .ok (.sh (rs2Of w) (rs1Of w) (immS w))
  | 2 => .ok (.sw (rs2Of w) (rs1Of w) (immS w))
  | _ => .error .unlistedEncoding

/-- Major opcode 19, ALU immediate (R124, R127). -/
def decodeAluImm (w : Tetra) : Decoded :=
  match funct3Of w with
  | 0 => .ok (.addi (rdOf w) (rs1Of w) (immI w))
  | 1 => listedIf (funct6Of w == 0) (.slli (rdOf w) (rs1Of w) (shamtOf w))
  | 2 => .ok (.slti (rdOf w) (rs1Of w) (immI w))
  | 3 => .ok (.sltui (rdOf w) (rs1Of w) (immI w))
  | 4 => .ok (.xori (rdOf w) (rs1Of w) (immI w))
  | 5 =>
    match funct6Of w with
    | 0 => .ok (.srli (rdOf w) (rs1Of w) (shamtOf w))
    | 16 => .ok (.srai (rdOf w) (rs1Of w) (shamtOf w))
    | _ => .error .unlistedEncoding
  | 6 => .ok (.ori (rdOf w) (rs1Of w) (immI w))
  | 7 => .ok (.andi (rdOf w) (rs1Of w) (immI w))

/-- Major opcode 51, ALU register, funct7 = 0 (R128). -/
def decodeAluBase (w : Tetra) : Decoded :=
  match funct3Of w with
  | 0 => .ok (.add (rdOf w) (rs1Of w) (rs2Of w))
  | 1 => .ok (.sll (rdOf w) (rs1Of w) (rs2Of w))
  | 2 => .ok (.slt (rdOf w) (rs1Of w) (rs2Of w))
  | 3 => .ok (.sltu (rdOf w) (rs1Of w) (rs2Of w))
  | 4 => .ok (.xor (rdOf w) (rs1Of w) (rs2Of w))
  | 5 => .ok (.srl (rdOf w) (rs1Of w) (rs2Of w))
  | 6 => .ok (.or (rdOf w) (rs1Of w) (rs2Of w))
  | 7 => .ok (.and (rdOf w) (rs1Of w) (rs2Of w))

/-- Major opcode 51, ALU register (R128). -/
def decodeAlu (w : Tetra) : Decoded :=
  match funct7Of w with
  | 0 => decodeAluBase w
  | 1 => listedIf (funct3Of w == 0) (.mul (rdOf w) (rs1Of w) (rs2Of w))
  | 32 =>
    match funct3Of w with
    | 0 => .ok (.sub (rdOf w) (rs1Of w) (rs2Of w))
    | 5 => .ok (.sra (rdOf w) (rs1Of w) (rs2Of w))
    | _ => .error .unlistedEncoding
  | _ => .error .unlistedEncoding

/-- Major opcode 99, branches (R125). -/
def decodeBranch (w : Tetra) : Decoded :=
  match funct3Of w with
  | 0 => .ok (.beq (rs1Of w) (rs2Of w) (immB w))
  | 1 => .ok (.bne (rs1Of w) (rs2Of w) (immB w))
  | 4 => .ok (.blt (rs1Of w) (rs2Of w) (immB w))
  | 5 => .ok (.bge (rs1Of w) (rs2Of w) (immB w))
  | 6 => .ok (.bltu (rs1Of w) (rs2Of w) (immB w))
  | 7 => .ok (.bgeu (rs1Of w) (rs2Of w) (immB w))
  | _ => .error .unlistedEncoding

/-- Major opcode 83 with fmt = 00, by funct5 (R129). -/
def decodeFloatS (w : Tetra) : Decoded :=
  match funct5Of w with
  | 0 => .ok (.fadd (rdOf w) (rs1Of w) (rs2Of w) (funct3Of w))
  | 1 => .ok (.fsub (rdOf w) (rs1Of w) (rs2Of w) (funct3Of w))
  | 2 => .ok (.fmul (rdOf w) (rs1Of w) (rs2Of w) (funct3Of w))
  | 3 => .ok (.fdiv (rdOf w) (rs1Of w) (rs2Of w) (funct3Of w))
  | 5 =>
    match funct3Of w with
    | 0 => .ok (.fmin (rdOf w) (rs1Of w) (rs2Of w))
    | 1 => .ok (.fmax (rdOf w) (rs1Of w) (rs2Of w))
    | _ => .error .unlistedEncoding
  | 11 => listedIf (rs2Of w == 0) (.fsqrt (rdOf w) (rs1Of w) (funct3Of w))
  | 16 =>
    match funct3Of w with
    | 0 => .ok (.fsgnj (rdOf w) (rs1Of w) (rs2Of w))
    | 1 => .ok (.fsgnjn (rdOf w) (rs1Of w) (rs2Of w))
    | 2 => .ok (.fsgnjx (rdOf w) (rs1Of w) (rs2Of w))
    | _ => .error .unlistedEncoding
  | 20 =>
    match funct3Of w with
    | 0 => .ok (.fle (rdOf w) (rs1Of w) (rs2Of w))
    | 1 => .ok (.flt (rdOf w) (rs1Of w) (rs2Of w))
    | 2 => .ok (.feq (rdOf w) (rs1Of w) (rs2Of w))
    | _ => .error .unlistedEncoding
  | 24 =>
    match rs2Of w with
    | 0 => .ok (.fcvt_w_s (rdOf w) (rs1Of w) (funct3Of w))
    | 1 => .ok (.fcvt_wu_s (rdOf w) (rs1Of w) (funct3Of w))
    | _ => .error .unlistedEncoding
  | 25 =>
    match rs2Of w with
    | 0 => .ok (.fcvt_s_w (rdOf w) (rs1Of w) (funct3Of w))
    | 1 => .ok (.fcvt_s_wu (rdOf w) (rs1Of w) (funct3Of w))
    | _ => .error .unlistedEncoding
  | 28 =>
    match funct3Of w with
    | 0 => listedIf (rs2Of w == 0) (.fmv_x_s (rdOf w) (rs1Of w))
    | 1 => listedIf (rs2Of w == 0) (.fclass (rdOf w) (rs1Of w))
    | _ => .error .unlistedEncoding
  | 30 => listedIf (rs2Of w == 0 && funct3Of w == 0) (.fmv_s_x (rdOf w) (rs1Of w))
  | _ => .error .unlistedEncoding

/-- Major opcode 83: only fmt = 00 is listed (R129, 43_floating_point.md R250). -/
def decodeFloat (w : Tetra) : Decoded :=
  match fmtOf w with
  | 0 => decodeFloatS w
  | _ => .error .unlistedEncoding

/-- Major opcode 15 (R130): `inst[31:28]` = 0, pred in 27..24, succ in 23..20. -/
def decodeFence (w : Tetra) : Decoded :=
  match funct3Of w with
  | 0 => listedIf (w.extractLsb' 28 4 == 0 && rs1Of w == 0 && rdOf w == 0)
      (.fence (w.extractLsb' 24 4) (w.extractLsb' 20 4))
  | 1 => listedIf (immI w == 0 && rs1Of w == 0 && rdOf w == 0) .fence_i
  | _ => .error .unlistedEncoding

/-- Major opcode 115, funct3 = 0 (R131): the register cells are 0. -/
def decodeSystem0 (w : Tetra) : Decoded :=
  match immI w with
  | 0x000 => listedIf (rs1Of w == 0 && rdOf w == 0) .ecall
  | 0x001 => listedIf (rs1Of w == 0 && rdOf w == 0) .ebreak
  | 0x100 => listedIf (rs1Of w == 0 && rdOf w == 0) .eret
  | 0x101 => listedIf (rs1Of w == 0 && rdOf w == 0) .wfi
  | 0x103 => listedIf (rs1Of w == 0 && rdOf w == 0) .pfi
  | _ => .error .unlistedEncoding

/-- Major opcode 115, funct3 = 1: the counter-read rows come before CSRRW (R142, 90_conflicts.md C11). -/
def decodeCsrrw (w : Tetra) : Decoded :=
  match rs1Of w with
  | 0 =>
    match immI w with
    | 0xC00 => .ok (.rdcycle (rdOf w))
    | 0xC80 => .ok (.rdcycleh (rdOf w))
    | 0xC01 => .ok (.rdtime (rdOf w))
    | 0xC81 => .ok (.rdtimeh (rdOf w))
    | 0xC02 => .ok (.rdinstret (rdOf w))
    | 0xC82 => .ok (.rdinstreth (rdOf w))
    | _ => .ok (.csrrw (rdOf w) (immI w) 0)
  | _ => .ok (.csrrw (rdOf w) (immI w) (rs1Of w))

/-- Major opcode 115 (R131). -/
def decodeSystem (w : Tetra) : Decoded :=
  match funct3Of w with
  | 0 => decodeSystem0 w
  | 1 => decodeCsrrw w
  | 2 => .ok (.csrrs (rdOf w) (immI w) (rs1Of w))
  | 3 => .ok (.csrrc (rdOf w) (immI w) (rs1Of w))
  | 5 => .ok (.csrrwi (rdOf w) (immI w) (rs1Of w))
  | 6 => .ok (.csrrsi (rdOf w) (immI w) (rs1Of w))
  | 7 => .ok (.csrrci (rdOf w) (immI w) (rs1Of w))
  | _ => .error .unlistedEncoding

/-- Major opcode 13, funct3 = 0, by funct7 (R132): the cells a row does not use are 0 (R144). -/
def decodeCustom0 (w : Tetra) : Decoded :=
  match funct7Of w with
  | 0 => .ok (.mvseg (rdOf w) (rs1Of w) (rs2Of w))
  | 1 => .ok (.mvmap (rdOf w) (rs1Of w) (rs2Of w))
  | 4 => listedIf (rs2Of w == 0 && rs1Of w == 0) (.palloc (rdOf w))
  | 5 => listedIf (rs2Of w == 0 && rdOf w == 0) (.pfree (rs1Of w))
  | 6 => listedIf (rs2Of w == 0 && rs1Of w == 0 && rdOf w == 0) .pfreeall
  | 8 => listedIf (rdOf w == 0) (.setto (rs1Of w) (rs2Of w))
  | 9 => listedIf (rs2Of w == 0) (.getto (rdOf w) (rs1Of w))
  | 10 => listedIf (rs2Of w == 0 && rs1Of w == 0) (.getzl (rdOf w))
  | 11 => listedIf (rs2Of w == 0 && rs1Of w == 0 && rdOf w == 0) .decto
  | 12 => listedIf (rdOf w == 0) (.insrdy (rs1Of w) (rs2Of w))
  | 13 => listedIf (rs2Of w == 0 && rdOf w == 0) (.rmvrdy (rs1Of w))
  | 14 => listedIf (rs2Of w == 0) (.getrdy (rdOf w) (rs1Of w))
  | 16 => listedIf (rs2Of w == 0 && rdOf w == 0) (.insiof (rs1Of w))
  | 17 => listedIf (rs2Of w == 0 && rdOf w == 0) (.rmviof (rs1Of w))
  | 18 => listedIf (rs2Of w == 0 && rs1Of w == 0) (.nxtiof (rdOf w))
  | 19 => listedIf (rs2Of w == 0 && rs1Of w == 0) (.prviof (rdOf w))
  | _ => .error .unlistedEncoding

/-- Major opcode 13 (R132). -/
def decodeCustom (w : Tetra) : Decoded :=
  match funct3Of w with
  | 0 => decodeCustom0 w
  | 1 => .ok (.lxx (rdOf w) (rs1Of w) (funct5Of w) (fmtOf w) (rs2Of w))
  | 2 => .ok (.sxx (rs2Of w) (rs1Of w) (funct5Of w) (fmtOf w) (rdOf w))
  | _ => .error .unlistedEncoding

/-- The instruction a word spells, or the name of why it spells none (R141 to R144). -/
def decode (w : Tetra) : Decoded :=
  match opcodeOf w with
  | 0x37 => .ok (.lui (rdOf w) (immU w))
  | 0x17 => .ok (.auipc (rdOf w) (immU w))
  | 0x6F => .ok (.jal (rdOf w) (immJ w))
  | 0x67 => listedIf (funct3Of w == 0) (.jalr (rdOf w) (rs1Of w) (immI w))
  | 0x63 => decodeBranch w
  | 0x03 => decodeLoad w
  | 0x07 => listedIf (funct3Of w == 2) (.flw (rdOf w) (rs1Of w) (immI w))
  | 0x23 => decodeStore w
  | 0x27 => listedIf (funct3Of w == 2) (.fsw (rs2Of w) (rs1Of w) (immS w))
  | 0x13 => decodeAluImm w
  | 0x33 => decodeAlu w
  | 0x53 => decodeFloat w
  | 0x0F => decodeFence w
  | 0x73 => decodeSystem w
  | 0x0D => decodeCustom w
  | _ => .error .unlistedEncoding

/-- The word of four bytes as instruction fetch assembles it: little-endian (R120, 20_memory.md R78); any other number of
bytes is no instruction. -/
def decodeBytes : List Byte → Decoded
  | [b0, b1, b2, b3] => decode (leValue 32 [b0, b1, b2, b3])
  | _ => .error .unlistedEncoding

/-- The four bytes of an instruction word as memory holds them, lowest address first (R120). -/
def instrBytes (w : Tetra) : List Byte := leBytes w 4

/-- The instruction the decoder reads from the opcode table's bits `w`, of which the lowest `nbits` count. -/
def decodeTableWord (nbits w : Nat) : Option Instr :=
  match decodeBytes (instrBytes (BitVec.ofNat 32 (w % 2 ^ nbits))) with
  | .ok i => some i
  | .error _ => none

/-! ## The encoder -/

/-- A word from its six columns (R121). -/
def pack (f7 : BitVec 7) (rs2 rs1 : Reg) (f3 : BitVec 3) (rd : Reg) (op : BitVec 7) : Tetra :=
  f7.setWidth 32 <<< 25 ||| rs2.setWidth 32 <<< 20 ||| rs1.setWidth 32 <<< 15 ||| f3.setWidth 32 <<< 12 |||
    rd.setWidth 32 <<< 7 ||| op.setWidth 32

/-- Formats JALR, ML, RI, SYS, CSR: a 12-bit field in bits 31..20 (R124, R131). -/
def packI (imm : BitVec 12) (rs1 : Reg) (f3 : BitVec 3) (rd : Reg) (op : BitVec 7) : Tetra :=
  pack (imm.extractLsb' 5 7) (imm.extractLsb' 0 5) rs1 f3 rd op

/-- Format MS (R126). -/
def packS (imm : BitVec 12) (rs2 rs1 : Reg) (f3 : BitVec 3) (op : BitVec 7) : Tetra :=
  pack (imm.extractLsb' 5 7) rs2 rs1 f3 (imm.extractLsb' 0 5) op

/-- Format BCC (R125): `off` is imm[12:1]. -/
def packB (off : BitVec 12) (rs2 rs1 : Reg) (f3 : BitVec 3) (op : BitVec 7) : Tetra :=
  pack (joinBits 7 (off.extractLsb' 11 1) (off.extractLsb' 4 6)) rs2 rs1 f3
    (joinBits 5 (off.extractLsb' 0 4) (off.extractLsb' 10 1)) op

/-- Format UI (R122): `imm` is imm[31:12]. -/
def packU (imm : BitVec 20) (rd : Reg) (op : BitVec 7) : Tetra :=
  pack (imm.extractLsb' 13 7) (imm.extractLsb' 8 5) (imm.extractLsb' 3 5) (imm.extractLsb' 0 3) rd op

/-- Format JAL (R123): `off` is imm[20:1]. -/
def packJ (off : BitVec 20) (rd : Reg) (op : BitVec 7) : Tetra :=
  pack (joinBits 7 (off.extractLsb' 19 1) (off.extractLsb' 4 6)) (joinBits 5 (off.extractLsb' 0 4) (off.extractLsb' 10 1))
    (off.extractLsb' 14 5) (off.extractLsb' 11 3) rd op

/-- Format RI, shift variant (R127): funct6 and a six-bit distance. -/
def packShift (f6 : BitVec 6) (shamt : BitVec 6) (rs1 : Reg) (f3 : BitVec 3) (rd : Reg) (op : BitVec 7) : Tetra :=
  pack (joinBits 7 f6 (shamt.extractLsb' 5 1)) (shamt.extractLsb' 0 5) rs1 f3 rd op

/-- Formats FLT, FSGNJ, FMV (R129): funct5, fmt = 00, major opcode 83. -/
def packF (f5 : BitVec 5) (rs2 rs1 : Reg) (f3 : BitVec 3) (rd : Reg) : Tetra :=
  pack (joinBits 7 f5 (0 : BitVec 2)) rs2 rs1 f3 rd 0x53

/-- Format FENCE (R130). -/
def packFence (pred succ : BitVec 4) : Tetra :=
  pack (joinBits 7 (0 : BitVec 4) (pred.extractLsb' 1 3)) (joinBits 5 (pred.extractLsb' 0 1) succ) 0 0 0 0x0F

/-- The instruction an assembler spelling stands for (R151, R152); the identity on the real rows. -/
def Instr.core : Instr → Instr
  | .lui rd imm => .lui rd imm
  | .auipc rd imm => .auipc rd imm
  | .jal rd off => .jal rd off
  | .jalr rd rs1 imm => .jalr rd rs1 imm
  | .beq rs1 rs2 off => .beq rs1 rs2 off
  | .bne rs1 rs2 off => .bne rs1 rs2 off
  | .blt rs1 rs2 off => .blt rs1 rs2 off
  | .bge rs1 rs2 off => .bge rs1 rs2 off
  | .bltu rs1 rs2 off => .bltu rs1 rs2 off
  | .bgeu rs1 rs2 off => .bgeu rs1 rs2 off
  | .lb rd rs1 imm => .lb rd rs1 imm
  | .lh rd rs1 imm => .lh rd rs1 imm
  | .lw rd rs1 imm => .lw rd rs1 imm
  | .lbu rd rs1 imm => .lbu rd rs1 imm
  | .lhu rd rs1 imm => .lhu rd rs1 imm
  | .flw frd rs1 imm => .flw frd rs1 imm
  | .sb rs2 rs1 imm => .sb rs2 rs1 imm
  | .sh rs2 rs1 imm => .sh rs2 rs1 imm
  | .sw rs2 rs1 imm => .sw rs2 rs1 imm
  | .fsw frs2 rs1 imm => .fsw frs2 rs1 imm
  | .addi rd rs1 imm => .addi rd rs1 imm
  | .slti rd rs1 imm => .slti rd rs1 imm
  | .sltui rd rs1 imm => .sltui rd rs1 imm
  | .xori rd rs1 imm => .xori rd rs1 imm
  | .ori rd rs1 imm => .ori rd rs1 imm
  | .andi rd rs1 imm => .andi rd rs1 imm
  | .slli rd rs1 shamt => .slli rd rs1 shamt
  | .srli rd rs1 shamt => .srli rd rs1 shamt
  | .srai rd rs1 shamt => .srai rd rs1 shamt
  | .add rd rs1 rs2 => .add rd rs1 rs2
  | .sub rd rs1 rs2 => .sub rd rs1 rs2
  | .mul rd rs1 rs2 => .mul rd rs1 rs2
  | .sll rd rs1 rs2 => .sll rd rs1 rs2
  | .slt rd rs1 rs2 => .slt rd rs1 rs2
  | .sltu rd rs1 rs2 => .sltu rd rs1 rs2
  | .xor rd rs1 rs2 => .xor rd rs1 rs2
  | .srl rd rs1 rs2 => .srl rd rs1 rs2
  | .sra rd rs1 rs2 => .sra rd rs1 rs2
  | .or rd rs1 rs2 => .or rd rs1 rs2
  | .and rd rs1 rs2 => .and rd rs1 rs2
  | .fadd frd frs1 frs2 rm => .fadd frd frs1 frs2 rm
  | .fsub frd frs1 frs2 rm => .fsub frd frs1 frs2 rm
  | .fmul frd frs1 frs2 rm => .fmul frd frs1 frs2 rm
  | .fdiv frd frs1 frs2 rm => .fdiv frd frs1 frs2 rm
  | .fmin frd frs1 frs2 => .fmin frd frs1 frs2
  | .fmax frd frs1 frs2 => .fmax frd frs1 frs2
  | .fsqrt frd frs1 rm => .fsqrt frd frs1 rm
  | .fsgnj frd frs1 frs2 => .fsgnj frd frs1 frs2
  | .fsgnjn frd frs1 frs2 => .fsgnjn frd frs1 frs2
  | .fsgnjx frd frs1 frs2 => .fsgnjx frd frs1 frs2
  | .feq rd frs1 frs2 => .feq rd frs1 frs2
  | .flt rd frs1 frs2 => .flt rd frs1 frs2
  | .fle rd frs1 frs2 => .fle rd frs1 frs2
  | .fcvt_w_s rd frs1 rm => .fcvt_w_s rd frs1 rm
  | .fcvt_wu_s rd frs1 rm => .fcvt_wu_s rd frs1 rm
  | .fcvt_s_w frd rs1 rm => .fcvt_s_w frd rs1 rm
  | .fcvt_s_wu frd rs1 rm => .fcvt_s_wu frd rs1 rm
  | .fmv_x_s rd frs1 => .fmv_x_s rd frs1
  | .fclass rd frs1 => .fclass rd frs1
  | .fmv_s_x frd rs1 => .fmv_s_x frd rs1
  | .fence pred succ => .fence pred succ
  | .fence_i => .fence_i
  | .ecall => .ecall
  | .ebreak => .ebreak
  | .eret => .eret
  | .wfi => .wfi
  | .pfi => .pfi
  | .rdcycle rd => .rdcycle rd
  | .rdcycleh rd => .rdcycleh rd
  | .rdtime rd => .rdtime rd
  | .rdtimeh rd => .rdtimeh rd
  | .rdinstret rd => .rdinstret rd
  | .rdinstreth rd => .rdinstreth rd
  | .csrrw rd csr rs1 => .csrrw rd csr rs1
  | .csrrs rd csr rs1 => .csrrs rd csr rs1
  | .csrrc rd csr rs1 => .csrrc rd csr rs1
  | .csrrwi rd csr zimm => .csrrwi rd csr zimm
  | .csrrsi rd csr zimm => .csrrsi rd csr zimm
  | .csrrci rd csr zimm => .csrrci rd csr zimm
  | .mvseg rd rs1 rs2 => .mvseg rd rs1 rs2
  | .mvmap rd rs1 rs2 => .mvmap rd rs1 rs2
  | .palloc rd => .palloc rd
  | .pfree rs1 => .pfree rs1
  | .pfreeall => .pfreeall
  | .setto rs1 rs2 => .setto rs1 rs2
  | .getto rd rs1 => .getto rd rs1
  | .getzl rd => .getzl rd
  | .decto => .decto
  | .insrdy rs1 rs2 => .insrdy rs1 rs2
  | .rmvrdy rs1 => .rmvrdy rs1
  | .getrdy rd rs1 => .getrdy rd rs1
  | .insiof rs1 => .insiof rs1
  | .rmviof rs1 => .rmviof rs1
  | .nxtiof rd => .nxtiof rd
  | .prviof rd => .prviof rd
  | .lxx rd rs1 rs3 sc f3l => .lxx rd rs1 rs3 sc f3l
  | .sxx rs2 rs1 rs3 sc f3s => .sxx rs2 rs1 rs3 sc f3s
  | .call off => .jal 1 off
  | .ret => .jalr 0 1 0
  | .bra off => .beq 0 0 off
  | .beqz rs1 off => .beq rs1 0 off
  | .ble a b off => .bge b a off
  | .nop => .addi 0 0 0
  | .ldi rd imm => .ori rd 0 imm
  | .mov rd rs1 => .or rd rs1 0
  | .fmov frd frs1 => .fsgnj frd frs1 frs1
  | .fneg frd frs1 => .fsgnjn frd frs1 frs1
  | .fabs frd frs1 => .fsgnjx frd frs1 frs1

/-- The word of an instruction, row by row of the format table; a spelling has the word of what it stands for (R151). -/
def encode : Instr → Tetra
  | .lui rd imm => packU imm rd 0x37
  | .auipc rd imm => packU imm rd 0x17
  | .jal rd off => packJ off rd 0x6F
  | .jalr rd rs1 imm => packI imm rs1 0 rd 0x67
  | .beq rs1 rs2 off => packB off rs2 rs1 0 0x63
  | .bne rs1 rs2 off => packB off rs2 rs1 1 0x63
  | .blt rs1 rs2 off => packB off rs2 rs1 4 0x63
  | .bge rs1 rs2 off => packB off rs2 rs1 5 0x63
  | .bltu rs1 rs2 off => packB off rs2 rs1 6 0x63
  | .bgeu rs1 rs2 off => packB off rs2 rs1 7 0x63
  | .lb rd rs1 imm => packI imm rs1 0 rd 0x03
  | .lh rd rs1 imm => packI imm rs1 1 rd 0x03
  | .lw rd rs1 imm => packI imm rs1 2 rd 0x03
  | .lbu rd rs1 imm => packI imm rs1 4 rd 0x03
  | .lhu rd rs1 imm => packI imm rs1 5 rd 0x03
  | .flw frd rs1 imm => packI imm rs1 2 frd 0x07
  | .sb rs2 rs1 imm => packS imm rs2 rs1 0 0x23
  | .sh rs2 rs1 imm => packS imm rs2 rs1 1 0x23
  | .sw rs2 rs1 imm => packS imm rs2 rs1 2 0x23
  | .fsw frs2 rs1 imm => packS imm frs2 rs1 2 0x27
  | .addi rd rs1 imm => packI imm rs1 0 rd 0x13
  | .slti rd rs1 imm => packI imm rs1 2 rd 0x13
  | .sltui rd rs1 imm => packI imm rs1 3 rd 0x13
  | .xori rd rs1 imm => packI imm rs1 4 rd 0x13
  | .ori rd rs1 imm => packI imm rs1 6 rd 0x13
  | .andi rd rs1 imm => packI imm rs1 7 rd 0x13
  | .slli rd rs1 shamt => packShift 0 shamt rs1 1 rd 0x13
  | .srli rd rs1 shamt => packShift 0 shamt rs1 5 rd 0x13
  | .srai rd rs1 shamt => packShift 16 shamt rs1 5 rd 0x13
  | .add rd rs1 rs2 => pack 0 rs2 rs1 0 rd 0x33
  | .sub rd rs1 rs2 => pack 32 rs2 rs1 0 rd 0x33
  | .mul rd rs1 rs2 => pack 1 rs2 rs1 0 rd 0x33
  | .sll rd rs1 rs2 => pack 0 rs2 rs1 1 rd 0x33
  | .slt rd rs1 rs2 => pack 0 rs2 rs1 2 rd 0x33
  | .sltu rd rs1 rs2 => pack 0 rs2 rs1 3 rd 0x33
  | .xor rd rs1 rs2 => pack 0 rs2 rs1 4 rd 0x33
  | .srl rd rs1 rs2 => pack 0 rs2 rs1 5 rd 0x33
  | .sra rd rs1 rs2 => pack 32 rs2 rs1 5 rd 0x33
  | .or rd rs1 rs2 => pack 0 rs2 rs1 6 rd 0x33
  | .and rd rs1 rs2 => pack 0 rs2 rs1 7 rd 0x33
  | .fadd frd frs1 frs2 rm => packF 0 frs2 frs1 rm frd
  | .fsub frd frs1 frs2 rm => packF 1 frs2 frs1 rm frd
  | .fmul frd frs1 frs2 rm => packF 2 frs2 frs1 rm frd
  | .fdiv frd frs1 frs2 rm => packF 3 frs2 frs1 rm frd
  | .fmin frd frs1 frs2 => packF 5 frs2 frs1 0 frd
  | .fmax frd frs1 frs2 => packF 5 frs2 frs1 1 frd
  | .fsqrt frd frs1 rm => packF 11 0 frs1 rm frd
  | .fsgnj frd frs1 frs2 => packF 16 frs2 frs1 0 frd
  | .fsgnjn frd frs1 frs2 => packF 16 frs2 frs1 1 frd
  | .fsgnjx frd frs1 frs2 => packF 16 frs2 frs1 2 frd
  | .feq rd frs1 frs2 => packF 20 frs2 frs1 2 rd
  | .flt rd frs1 frs2 => packF 20 frs2 frs1 1 rd
  | .fle rd frs1 frs2 => packF 20 frs2 frs1 0 rd
  | .fcvt_w_s rd frs1 rm => packF 24 0 frs1 rm rd
  | .fcvt_wu_s rd frs1 rm => packF 24 1 frs1 rm rd
  | .fcvt_s_w frd rs1 rm => packF 25 0 rs1 rm frd
  | .fcvt_s_wu frd rs1 rm => packF 25 1 rs1 rm frd
  | .fmv_x_s rd frs1 => packF 28 0 frs1 0 rd
  | .fclass rd frs1 => packF 28 0 frs1 1 rd
  | .fmv_s_x frd rs1 => packF 30 0 rs1 0 frd
  | .fence pred succ => packFence pred succ
  | .fence_i => packI 0 0 1 0 0x0F
  | .ecall => packI 0x000 0 0 0 0x73
  | .ebreak => packI 0x001 0 0 0 0x73
  | .eret => packI 0x100 0 0 0 0x73
  | .wfi => packI 0x101 0 0 0 0x73
  | .pfi => packI 0x103 0 0 0 0x73
  | .rdcycle rd => packI 0xC00 0 1 rd 0x73
  | .rdcycleh rd => packI 0xC80 0 1 rd 0x73
  | .rdtime rd => packI 0xC01 0 1 rd 0x73
  | .rdtimeh rd => packI 0xC81 0 1 rd 0x73
  | .rdinstret rd => packI 0xC02 0 1 rd 0x73
  | .rdinstreth rd => packI 0xC82 0 1 rd 0x73
  | .csrrw rd csr rs1 => packI csr rs1 1 rd 0x73
  | .csrrs rd csr rs1 => packI csr rs1 2 rd 0x73
  | .csrrc rd csr rs1 => packI csr rs1 3 rd 0x73
  | .csrrwi rd csr zimm => packI csr zimm 5 rd 0x73
  | .csrrsi rd csr zimm => packI csr zimm 6 rd 0x73
  | .csrrci rd csr zimm => packI csr zimm 7 rd 0x73
  | .mvseg rd rs1 rs2 => pack 0 rs2 rs1 0 rd 0x0D
  | .mvmap rd rs1 rs2 => pack 1 rs2 rs1 0 rd 0x0D
  | .palloc rd => pack 4 0 0 0 rd 0x0D
  | .pfree rs1 => pack 5 0 rs1 0 0 0x0D
  | .pfreeall => pack 6 0 0 0 0 0x0D
  | .setto rs1 rs2 => pack 8 rs2 rs1 0 0 0x0D
  | .getto rd rs1 => pack 9 0 rs1 0 rd 0x0D
  | .getzl rd => pack 10 0 0 0 rd 0x0D
  | .decto => pack 11 0 0 0 0 0x0D
  | .insrdy rs1 rs2 => pack 12 rs2 rs1 0 0 0x0D
  | .rmvrdy rs1 => pack 13 0 rs1 0 0 0x0D
  | .getrdy rd rs1 => pack 14 0 rs1 0 rd 0x0D
  | .insiof rs1 => pack 16 0 rs1 0 0 0x0D
  | .rmviof rs1 => pack 17 0 rs1 0 0 0x0D
  | .nxtiof rd => pack 18 0 0 0 rd 0x0D
  | .prviof rd => pack 19 0 0 0 rd 0x0D
  | .lxx rd rs1 rs3 sc f3l => pack (joinBits 7 rs3 sc) f3l rs1 1 rd 0x0D
  | .sxx rs2 rs1 rs3 sc f3s => pack (joinBits 7 rs3 sc) rs2 rs1 2 f3s 0x0D
  | .call off => packJ off 1 0x6F
  | .ret => packI 0 1 0 0 0x67
  | .bra off => packB off 0 0 0 0x63
  | .beqz rs1 off => packB off 0 rs1 0 0x63
  | .ble a b off => packB off a b 5 0x63
  | .nop => packI 0 0 0 0 0x13
  | .ldi rd imm => packI imm 0 6 rd 0x13
  | .mov rd rs1 => pack 0 0 rs1 6 rd 0x33
  | .fmov frd frs1 => packF 16 frs1 frs1 0 frd
  | .fneg frd frs1 => packF 16 frs1 frs1 1 frd
  | .fabs frd frs1 => packF 16 frs1 frs1 2 frd

/-- The bytes of an instruction in memory, lowest address first. -/
def encodeBytes (i : Instr) : List Byte := instrBytes (encode i)

end Sys2Proof
end

