-- ==== Sys2Proof/Machine/Environment.lean ====
section
/-! DEFINITION. What happens at a step boundary, before an instruction: the counters advance and the environment presents its
set of pending sources (entries 6, 7); and the fetch of the instruction itself. -/

namespace Sys2Proof.Machine

/-- The counters advance by amounts the source does not give (44_machine_mode.md R305); while the hart waits in WFI, only the
wall-clock time does (R304, 60_exceptions.md R393). -/
def State.tick (s : State) : State :=
  if s.waiting then { s.afterDraw with time := s.time + s.drawn }
  else
    { s with
      time    := s.time + Config.draw s.draws
      cycle   := s.cycle + Config.draw (s.draws + 1)
      instret := s.instret + Config.draw (s.draws + 2)
      draws   := s.draws + 3 }

/-- The set of pending sources the hart sees when the environment presents `p`: sources the machine has (60_exceptions.md R390);
the timer may become pending only when `mtime >= mtimecmp`, unsigned (R391). -/
def acceptedPending (p : Word) (s : State) : Word :=
  if s.pending.getLsbD timerSource.val || s.mtimecmp.ule s.time then p &&& sources else withoutTimer (p &&& sources)

/-- The environment decides which sources are pending (60_exceptions.md R390): the next set of `arrivals`, or no change. -/
def State.acceptArrival (s : State) : State :=
  match s.arrivals with
  | [] => s
  | p :: rest => { s with pending := acceptedPending p s, arrivals := rest }

/-- The state at the coming step boundary. -/
def State.boundary (s : State) : State := s.tick.acceptArrival

/-- The instruction at `pc` and the state after its fetch (10_state.md R33, 30_encoding.md R120, R143). -/
def fetchInstr (s : State) : Except Fault (Instr × State) :=
  match fetchBytes s with
  | .error f => .error f
  | .ok r =>
    match decodeBytes r.1 with
    | .ok i => .ok (i, r.2)
    | .error _ => .error .unlistedEncoding

/-- Four bytes of an instruction loaded from outside at the physical addresses `pc` is fetched from (entry 29). -/
def loadAtPc (bytes : List Byte) (s : State) : State :=
  match translateRange (s.pc.setWidth 32) 4 .fetch s with
  | .ok pas => loadBytes (pas.zip bytes) s
  | .error _ => s

/-- No interrupt is taken at the next boundary: nothing pending, no arrival due. -/
def quiet (s : State) : State := { s with pending := 0, arrivals := [] }

end Sys2Proof.Machine
end

