-- ==== Sys2Proof/Machine/Step.lean ====
section
/-! DEFINITION. The one step of the machine: a boundary, then a wake-up, an interrupt, or one instruction
(60_exceptions.md R392, R393; 70_reset_and_hazards.md R430). -/

namespace Sys2Proof.Machine

/-- One step. While the hart waits, no instruction executes; before each instruction is fetched an interrupt is accepted if
`ie` = 1 (R392). No step is a reset: what causes one is not in the source (70_reset_and_hazards.md R420), and in the model a
reset is the start of a run, `State.reset`, and never comes during one (DESIGN CHOICE, entry 38). -/
def step (s : State) : Host.Outcome State Fault Refusal :=
  let b := s.boundary
  if b.waiting then (if intRequest b then wakeUp b else .next b)
  else if b.ie && intRequest b then takeInterrupt b.pc b
  else orFault (fetchInstr b) fun r => exec r.1 r.2

/-- `s` with the instruction of the table's bits `w` (the lowest `nbits` of them, the rest zero) where the next step fetches:
the load of a program from outside the machine (entry 29). The hart is not waiting and no interrupt is due. -/
def State.withFetchWord (s : State) (nbits w : Nat) : State :=
  let r := { s with waiting := false }
  let q := if s.ie then quiet r else r
  loadAtPc (instrBytes (BitVec.ofNat 32 (w % 2 ^ nbits))) q

end Sys2Proof.Machine
end

