-- ==== Sys2Proof/Laws/Encoding.lean ====
section
/-! SUPPORT. The fields of a packed word: what the decoder's accessors read from what the encoder's packers write. -/

namespace Sys2Proof

open Sys2Proof.Machine (joinBits)

variable (f7 : BitVec 7) (rs2 rs1 rd : Reg) (f3 : BitVec 3) (op : BitVec 7)

@[simp] theorem funct7Of_pack : funct7Of (pack f7 rs2 rs1 f3 rd op) = f7 := by
  unfold funct7Of pack; ext i hi; interval_cases i <;> simp

@[simp] theorem rs2Of_pack : rs2Of (pack f7 rs2 rs1 f3 rd op) = rs2 := by
  unfold rs2Of pack; ext i hi; interval_cases i <;> simp

@[simp] theorem rs1Of_pack : rs1Of (pack f7 rs2 rs1 f3 rd op) = rs1 := by
  unfold rs1Of pack; ext i hi; interval_cases i <;> simp

@[simp] theorem funct3Of_pack : funct3Of (pack f7 rs2 rs1 f3 rd op) = f3 := by
  unfold funct3Of pack; ext i hi; interval_cases i <;> simp

@[simp] theorem rdOf_pack : rdOf (pack f7 rs2 rs1 f3 rd op) = rd := by
  unfold rdOf pack; ext i hi; interval_cases i <;> simp

@[simp] theorem opcodeOf_pack : opcodeOf (pack f7 rs2 rs1 f3 rd op) = op := by
  unfold opcodeOf pack; ext i hi; interval_cases i <;> simp

/-- A word is what its six columns spell (R121). -/
theorem pack_fields (w : Tetra) : pack (funct7Of w) (rs2Of w) (rs1Of w) (funct3Of w) (rdOf w) (opcodeOf w) = w := by
  unfold pack funct7Of rs2Of rs1Of funct3Of rdOf opcodeOf; ext i hi; interval_cases i <;> simp

/-! ## The two halves of a joined field -/

theorem joinBits_5_7 (imm : BitVec 12) : joinBits 12 (imm.extractLsb' 5 7) (imm.extractLsb' 0 5) = imm := by
  unfold joinBits; ext i hi; interval_cases i <;> simp

@[simp] theorem immI_packI (imm : BitVec 12) : immI (packI imm rs1 f3 rd op) = imm := by
  simp [immI, packI, joinBits_5_7]

@[simp] theorem rs1Of_packI (imm : BitVec 12) : rs1Of (packI imm rs1 f3 rd op) = rs1 := by simp [packI]
@[simp] theorem funct3Of_packI (imm : BitVec 12) : funct3Of (packI imm rs1 f3 rd op) = f3 := by simp [packI]
@[simp] theorem rdOf_packI (imm : BitVec 12) : rdOf (packI imm rs1 f3 rd op) = rd := by simp [packI]
@[simp] theorem opcodeOf_packI (imm : BitVec 12) : opcodeOf (packI imm rs1 f3 rd op) = op := by simp [packI]

@[simp] theorem immS_packS (imm : BitVec 12) : immS (packS imm rs2 rs1 f3 op) = imm := by
  simp [immS, packS, joinBits_5_7]

@[simp] theorem rs2Of_packS (imm : BitVec 12) : rs2Of (packS imm rs2 rs1 f3 op) = rs2 := by simp [packS]
@[simp] theorem rs1Of_packS (imm : BitVec 12) : rs1Of (packS imm rs2 rs1 f3 op) = rs1 := by simp [packS]
@[simp] theorem funct3Of_packS (imm : BitVec 12) : funct3Of (packS imm rs2 rs1 f3 op) = f3 := by simp [packS]
@[simp] theorem opcodeOf_packS (imm : BitVec 12) : opcodeOf (packS imm rs2 rs1 f3 op) = op := by simp [packS]

@[simp] theorem immB_packB (off : BitVec 12) : immB (packB off rs2 rs1 f3 op) = off := by
  simp only [immB, packB, funct7Of_pack, rdOf_pack]
  unfold joinBits; ext i hi; interval_cases i <;> simp

@[simp] theorem rs2Of_packB (off : BitVec 12) : rs2Of (packB off rs2 rs1 f3 op) = rs2 := by simp [packB]
@[simp] theorem rs1Of_packB (off : BitVec 12) : rs1Of (packB off rs2 rs1 f3 op) = rs1 := by simp [packB]
@[simp] theorem funct3Of_packB (off : BitVec 12) : funct3Of (packB off rs2 rs1 f3 op) = f3 := by simp [packB]
@[simp] theorem opcodeOf_packB (off : BitVec 12) : opcodeOf (packB off rs2 rs1 f3 op) = op := by simp [packB]

@[simp] theorem immU_packU (imm : BitVec 20) : immU (packU imm rd op) = imm := by
  simp only [immU, packU, funct7Of_pack, rs2Of_pack, rs1Of_pack, funct3Of_pack]
  unfold joinBits; ext i hi; interval_cases i <;> simp

@[simp] theorem rdOf_packU (imm : BitVec 20) : rdOf (packU imm rd op) = rd := by simp [packU]
@[simp] theorem opcodeOf_packU (imm : BitVec 20) : opcodeOf (packU imm rd op) = op := by simp [packU]

@[simp] theorem immJ_packJ (off : BitVec 20) : immJ (packJ off rd op) = off := by
  simp only [immJ, packJ, funct7Of_pack, rs2Of_pack, rs1Of_pack, funct3Of_pack]
  unfold joinBits; ext i hi; interval_cases i <;> simp

@[simp] theorem rdOf_packJ (off : BitVec 20) : rdOf (packJ off rd op) = rd := by simp [packJ]
@[simp] theorem opcodeOf_packJ (off : BitVec 20) : opcodeOf (packJ off rd op) = op := by simp [packJ]

variable (f6 sh : BitVec 6)

@[simp] theorem funct6Of_packShift : funct6Of (packShift f6 sh rs1 f3 rd op) = f6 := by
  simp only [funct6Of, packShift, funct7Of_pack]
  unfold joinBits; ext i hi; interval_cases i <;> simp

@[simp] theorem shamtOf_packShift : shamtOf (packShift f6 sh rs1 f3 rd op) = sh := by
  simp only [shamtOf, packShift, funct7Of_pack, rs2Of_pack]
  unfold joinBits; ext i hi; interval_cases i <;> simp

@[simp] theorem rs1Of_packShift : rs1Of (packShift f6 sh rs1 f3 rd op) = rs1 := by simp [packShift]
@[simp] theorem funct3Of_packShift : funct3Of (packShift f6 sh rs1 f3 rd op) = f3 := by simp [packShift]
@[simp] theorem rdOf_packShift : rdOf (packShift f6 sh rs1 f3 rd op) = rd := by simp [packShift]
@[simp] theorem opcodeOf_packShift : opcodeOf (packShift f6 sh rs1 f3 rd op) = op := by simp [packShift]

variable (hi5 : BitVec 5) (lo2 : BitVec 2)

theorem joinBits_high5 : (joinBits 7 hi5 lo2).extractLsb' 2 5 = hi5 := by
  unfold joinBits; ext i hi; interval_cases i <;> simp

theorem joinBits_low2 : (joinBits 7 hi5 lo2).extractLsb' 0 2 = lo2 := by
  unfold joinBits; ext i hi; interval_cases i <;> simp

@[simp] theorem funct5Of_pack_joined : funct5Of (pack (joinBits 7 hi5 lo2) rs2 rs1 f3 rd op) = hi5 := by
  simp [funct5Of, joinBits_high5]

@[simp] theorem fmtOf_pack_joined : fmtOf (pack (joinBits 7 hi5 lo2) rs2 rs1 f3 rd op) = lo2 := by
  simp [fmtOf, joinBits_low2]

@[simp] theorem funct5Of_packF : funct5Of (packF hi5 rs2 rs1 f3 rd) = hi5 := by simp [packF]
@[simp] theorem fmtOf_packF : fmtOf (packF hi5 rs2 rs1 f3 rd) = 0 := by simp [packF]
@[simp] theorem rs2Of_packF : rs2Of (packF hi5 rs2 rs1 f3 rd) = rs2 := by simp [packF]
@[simp] theorem rs1Of_packF : rs1Of (packF hi5 rs2 rs1 f3 rd) = rs1 := by simp [packF]
@[simp] theorem funct3Of_packF : funct3Of (packF hi5 rs2 rs1 f3 rd) = f3 := by simp [packF]
@[simp] theorem rdOf_packF : rdOf (packF hi5 rs2 rs1 f3 rd) = rd := by simp [packF]
@[simp] theorem opcodeOf_packF : opcodeOf (packF hi5 rs2 rs1 f3 rd) = 0x53 := by simp [packF]

/-! ## A word from its own fields -/

theorem joinBits_parts12 (a : BitVec 7) (b : BitVec 5) :
    (joinBits 12 a b).extractLsb' 5 7 = a ∧ (joinBits 12 a b).extractLsb' 0 5 = b := by
  constructor <;> (unfold joinBits; ext i hi; interval_cases i <;> simp)

theorem packI_fields (w : Tetra) : packI (immI w) (rs1Of w) (funct3Of w) (rdOf w) (opcodeOf w) = w := by
  obtain ⟨h1, h2⟩ := joinBits_parts12 (funct7Of w) (rs2Of w)
  rw [packI, immI, h1, h2, pack_fields]

theorem packS_fields (w : Tetra) : packS (immS w) (rs2Of w) (rs1Of w) (funct3Of w) (opcodeOf w) = w := by
  obtain ⟨h1, h2⟩ := joinBits_parts12 (funct7Of w) (rdOf w)
  rw [packS, immS, h1, h2, pack_fields]

theorem packB_fields (w : Tetra) : packB (immB w) (rs2Of w) (rs1Of w) (funct3Of w) (opcodeOf w) = w := by
  have h (a : BitVec 7) (b : BitVec 5) (c : BitVec 12)
      (hc : c = joinBits 12 (joinBits 2 (a.extractLsb' 6 1) (b.extractLsb' 0 1))
        (joinBits 10 (a.extractLsb' 0 6) (b.extractLsb' 1 4))) :
      joinBits 7 (c.extractLsb' 11 1) (c.extractLsb' 4 6) = a ∧ joinBits 5 (c.extractLsb' 0 4) (c.extractLsb' 10 1) = b := by
    subst hc
    constructor <;> (unfold joinBits; ext i hi; interval_cases i <;> simp)
  obtain ⟨h1, h2⟩ := h (funct7Of w) (rdOf w) (immB w) rfl
  rw [packB, h1, h2, pack_fields]

theorem packU_fields (w : Tetra) : packU (immU w) (rdOf w) (opcodeOf w) = w := by
  have h (a : BitVec 7) (b c : BitVec 5) (d : BitVec 3) (e : BitVec 20)
      (he : e = joinBits 20 (joinBits 12 a b) (joinBits 8 c d)) :
      e.extractLsb' 13 7 = a ∧ e.extractLsb' 8 5 = b ∧ e.extractLsb' 3 5 = c ∧ e.extractLsb' 0 3 = d := by
    subst he
    refine ⟨?_, ?_, ?_, ?_⟩ <;> (unfold joinBits; ext i hi; interval_cases i <;> simp)
  obtain ⟨h1, h2, h3, h4⟩ := h (funct7Of w) (rs2Of w) (rs1Of w) (funct3Of w) (immU w) rfl
  rw [packU, h1, h2, h3, h4, pack_fields]

theorem packJ_fields (w : Tetra) : packJ (immJ w) (rdOf w) (opcodeOf w) = w := by
  have h (a : BitVec 7) (b c : BitVec 5) (d : BitVec 3) (e : BitVec 20)
      (he : e = joinBits 20
        (joinBits 10 (joinBits 9 (a.extractLsb' 6 1) (joinBits 8 c d)) (b.extractLsb' 0 1))
        (joinBits 10 (a.extractLsb' 0 6) (b.extractLsb' 1 4))) :
      joinBits 7 (e.extractLsb' 19 1) (e.extractLsb' 4 6) = a ∧ joinBits 5 (e.extractLsb' 0 4) (e.extractLsb' 10 1) = b ∧
        e.extractLsb' 14 5 = c ∧ e.extractLsb' 11 3 = d := by
    subst he
    refine ⟨?_, ?_, ?_, ?_⟩ <;> (unfold joinBits; ext i hi; interval_cases i <;> simp)
  obtain ⟨h1, h2, h3, h4⟩ := h (funct7Of w) (rs2Of w) (rs1Of w) (funct3Of w) (immJ w) rfl
  rw [packJ, h1, h2, h3, h4, pack_fields]

theorem packShift_fields (w : Tetra) :
    packShift (funct6Of w) (shamtOf w) (rs1Of w) (funct3Of w) (rdOf w) (opcodeOf w) = w := by
  have h (a : BitVec 7) (b : BitVec 5) :
      joinBits 7 (a.extractLsb' 1 6) ((joinBits 6 (a.extractLsb' 0 1) b).extractLsb' 5 1) = a ∧
        (joinBits 6 (a.extractLsb' 0 1) b).extractLsb' 0 5 = b := by
    constructor <;> (unfold joinBits; ext i hi; interval_cases i <;> simp)
  obtain ⟨h1, h2⟩ := h (funct7Of w) (rs2Of w)
  rw [packShift, funct6Of, shamtOf, h1, h2, pack_fields]

theorem joinBits_funct7 (w : Tetra) : joinBits 7 (funct5Of w) (fmtOf w) = funct7Of w := by
  have h (a : BitVec 7) : joinBits 7 (a.extractLsb' 2 5) (a.extractLsb' 0 2) = a := by
    unfold joinBits; ext i hi; interval_cases i <;> simp
  exact h (funct7Of w)

theorem packF_fields (w : Tetra) (hf : fmtOf w = 0) (ho : opcodeOf w = 0x53) :
    packF (funct5Of w) (rs2Of w) (rs1Of w) (funct3Of w) (rdOf w) = w := by
  have h := joinBits_funct7 w
  rw [hf] at h
  rw [packF, h, ← ho, pack_fields]

/-! ## FENCE's three fields -/

theorem high4_eq (w : Tetra) : w.extractLsb' 28 4 = (funct7Of w).extractLsb' 3 4 := by
  unfold funct7Of; ext i hi; interval_cases i <;> simp

theorem pred_eq (w : Tetra) : w.extractLsb' 24 4 = joinBits 4 ((funct7Of w).extractLsb' 0 3) ((rs2Of w).extractLsb' 4 1) := by
  unfold funct7Of rs2Of joinBits; ext i hi; interval_cases i <;> simp

theorem succ_eq (w : Tetra) : w.extractLsb' 20 4 = (rs2Of w).extractLsb' 0 4 := by
  unfold rs2Of; ext i hi; interval_cases i <;> simp

/-- The three fields of a FENCE word (R130). -/
theorem fence_fields (pred succ : BitVec 4) :
    (packFence pred succ).extractLsb' 28 4 = 0 ∧ (packFence pred succ).extractLsb' 24 4 = pred ∧
      (packFence pred succ).extractLsb' 20 4 = succ := by
  rw [high4_eq, pred_eq, succ_eq]
  simp only [packFence, funct7Of_pack, rs2Of_pack]
  refine ⟨?_, ?_, ?_⟩ <;> (unfold joinBits; ext i hi; interval_cases i <;> simp)

theorem packFence_fields (w : Tetra) (ho : opcodeOf w = 0x0F) (h3 : funct3Of w = 0) (h1 : rs1Of w = 0) (hd : rdOf w = 0)
    (hh : w.extractLsb' 28 4 = 0) : packFence (w.extractLsb' 24 4) (w.extractLsb' 20 4) = w := by
  have h (a : BitVec 7) (b : BitVec 5) (p : BitVec 4) (hz : a.extractLsb' 3 4 = 0)
      (hp : p = joinBits 4 (a.extractLsb' 0 3) (b.extractLsb' 4 1)) :
      joinBits 7 (0 : BitVec 4) (p.extractLsb' 1 3) = a ∧ joinBits 5 (p.extractLsb' 0 1) (b.extractLsb' 0 4) = b := by
    subst hp
    have hb (i : Nat) (hi : i < 4) : a.getLsbD (3 + i) = false := by
      have := congrArg (fun v => v.getLsbD i) hz
      simpa [hi] using this
    have h0 := hb 0 (by omega)
    have h1 := hb 1 (by omega)
    have h2 := hb 2 (by omega)
    have h3 := hb 3 (by omega)
    simp only [Nat.add_zero, Nat.reduceAdd] at h0 h1 h2 h3
    constructor <;> (unfold joinBits; ext i hi; interval_cases i <;> simp_all [BitVec.getLsbD_eq_getElem])
  rw [high4_eq] at hh
  obtain ⟨e1, e2⟩ := h (funct7Of w) (rs2Of w) (w.extractLsb' 24 4) hh (pred_eq w)
  rw [← succ_eq] at e2
  rw [packFence, e1, e2]
  conv_rhs => rw [← pack_fields w, ho, h3, h1, hd]

end Sys2Proof
end

