-- ==== Sys2Proof/Laws/PerInstr.lean ====
section
/-! SUPPORT. A law of every instruction's encoding, one lemma per constructor. -/

namespace Sys2Proof.Laws.OpcodeListed

/-- The fifteen major opcodes of the format table (30_encoding.md R141). -/
def majors : List (BitVec 7) :=
  [0x37, 0x17, 0x6F, 0x67, 0x63, 0x03, 0x07, 0x23, 0x27, 0x13, 0x33, 0x53, 0x0F, 0x73, 0x0D]

/-- The instruction's word carries a listed major opcode. -/
def Statement (i : Instr) : Prop := opcodeOf (encode i) ∈ majors

theorem of_opcode {i : Instr} {op : BitVec 7} (h : opcodeOf (encode i) = op) (hm : op ∈ majors) : Statement i :=
  (congrArg (· ∈ majors) h).mpr hm

theorem lui (rd : Reg) (imm : BitVec 20) : Statement (.lui rd imm) := of_opcode (opcodeOf_packU _ _ _) (by decide)
theorem auipc (rd : Reg) (imm : BitVec 20) : Statement (.auipc rd imm) := of_opcode (opcodeOf_packU _ _ _) (by decide)
theorem jal (rd : Reg) (off : BitVec 20) : Statement (.jal rd off) := of_opcode (opcodeOf_packJ _ _ _) (by decide)
theorem jalr (rd : Reg) (rs1 : Reg) (imm : BitVec 12) : Statement (.jalr rd rs1 imm) := of_opcode (opcodeOf_packI _ _ _ _ _) (by decide)
theorem beq (rs1 : Reg) (rs2 : Reg) (off : BitVec 12) : Statement (.beq rs1 rs2 off) := of_opcode (opcodeOf_packB _ _ _ _ _) (by decide)
theorem bne (rs1 : Reg) (rs2 : Reg) (off : BitVec 12) : Statement (.bne rs1 rs2 off) := of_opcode (opcodeOf_packB _ _ _ _ _) (by decide)
theorem blt (rs1 : Reg) (rs2 : Reg) (off : BitVec 12) : Statement (.blt rs1 rs2 off) := of_opcode (opcodeOf_packB _ _ _ _ _) (by decide)
theorem bge (rs1 : Reg) (rs2 : Reg) (off : BitVec 12) : Statement (.bge rs1 rs2 off) := of_opcode (opcodeOf_packB _ _ _ _ _) (by decide)
theorem bltu (rs1 : Reg) (rs2 : Reg) (off : BitVec 12) : Statement (.bltu rs1 rs2 off) := of_opcode (opcodeOf_packB _ _ _ _ _) (by decide)
theorem bgeu (rs1 : Reg) (rs2 : Reg) (off : BitVec 12) : Statement (.bgeu rs1 rs2 off) := of_opcode (opcodeOf_packB _ _ _ _ _) (by decide)
theorem lb (rd : Reg) (rs1 : Reg) (imm : BitVec 12) : Statement (.lb rd rs1 imm) := of_opcode (opcodeOf_packI _ _ _ _ _) (by decide)
theorem lh (rd : Reg) (rs1 : Reg) (imm : BitVec 12) : Statement (.lh rd rs1 imm) := of_opcode (opcodeOf_packI _ _ _ _ _) (by decide)
theorem lw (rd : Reg) (rs1 : Reg) (imm : BitVec 12) : Statement (.lw rd rs1 imm) := of_opcode (opcodeOf_packI _ _ _ _ _) (by decide)
theorem lbu (rd : Reg) (rs1 : Reg) (imm : BitVec 12) : Statement (.lbu rd rs1 imm) := of_opcode (opcodeOf_packI _ _ _ _ _) (by decide)
theorem lhu (rd : Reg) (rs1 : Reg) (imm : BitVec 12) : Statement (.lhu rd rs1 imm) := of_opcode (opcodeOf_packI _ _ _ _ _) (by decide)
theorem flw (frd : Reg) (rs1 : Reg) (imm : BitVec 12) : Statement (.flw frd rs1 imm) := of_opcode (opcodeOf_packI _ _ _ _ _) (by decide)
theorem sb (rs2 : Reg) (rs1 : Reg) (imm : BitVec 12) : Statement (.sb rs2 rs1 imm) := of_opcode (opcodeOf_packS _ _ _ _ _) (by decide)
theorem sh (rs2 : Reg) (rs1 : Reg) (imm : BitVec 12) : Statement (.sh rs2 rs1 imm) := of_opcode (opcodeOf_packS _ _ _ _ _) (by decide)
theorem sw (rs2 : Reg) (rs1 : Reg) (imm : BitVec 12) : Statement (.sw rs2 rs1 imm) := of_opcode (opcodeOf_packS _ _ _ _ _) (by decide)
theorem fsw (frs2 : Reg) (rs1 : Reg) (imm : BitVec 12) : Statement (.fsw frs2 rs1 imm) := of_opcode (opcodeOf_packS _ _ _ _ _) (by decide)
theorem addi (rd : Reg) (rs1 : Reg) (imm : BitVec 12) : Statement (.addi rd rs1 imm) := of_opcode (opcodeOf_packI _ _ _ _ _) (by decide)
theorem slti (rd : Reg) (rs1 : Reg) (imm : BitVec 12) : Statement (.slti rd rs1 imm) := of_opcode (opcodeOf_packI _ _ _ _ _) (by decide)
theorem sltui (rd : Reg) (rs1 : Reg) (imm : BitVec 12) : Statement (.sltui rd rs1 imm) := of_opcode (opcodeOf_packI _ _ _ _ _) (by decide)
theorem xori (rd : Reg) (rs1 : Reg) (imm : BitVec 12) : Statement (.xori rd rs1 imm) := of_opcode (opcodeOf_packI _ _ _ _ _) (by decide)
theorem ori (rd : Reg) (rs1 : Reg) (imm : BitVec 12) : Statement (.ori rd rs1 imm) := of_opcode (opcodeOf_packI _ _ _ _ _) (by decide)
theorem andi (rd : Reg) (rs1 : Reg) (imm : BitVec 12) : Statement (.andi rd rs1 imm) := of_opcode (opcodeOf_packI _ _ _ _ _) (by decide)
theorem slli (rd : Reg) (rs1 : Reg) (shamt : BitVec 6) : Statement (.slli rd rs1 shamt) := of_opcode (opcodeOf_packShift _ _ _ _ _ _) (by decide)
theorem srli (rd : Reg) (rs1 : Reg) (shamt : BitVec 6) : Statement (.srli rd rs1 shamt) := of_opcode (opcodeOf_packShift _ _ _ _ _ _) (by decide)
theorem srai (rd : Reg) (rs1 : Reg) (shamt : BitVec 6) : Statement (.srai rd rs1 shamt) := of_opcode (opcodeOf_packShift _ _ _ _ _ _) (by decide)
theorem add (rd : Reg) (rs1 : Reg) (rs2 : Reg) : Statement (.add rd rs1 rs2) := of_opcode (opcodeOf_pack _ _ _ _ _ _) (by decide)
theorem sub (rd : Reg) (rs1 : Reg) (rs2 : Reg) : Statement (.sub rd rs1 rs2) := of_opcode (opcodeOf_pack _ _ _ _ _ _) (by decide)
theorem mul (rd : Reg) (rs1 : Reg) (rs2 : Reg) : Statement (.mul rd rs1 rs2) := of_opcode (opcodeOf_pack _ _ _ _ _ _) (by decide)
theorem sll (rd : Reg) (rs1 : Reg) (rs2 : Reg) : Statement (.sll rd rs1 rs2) := of_opcode (opcodeOf_pack _ _ _ _ _ _) (by decide)
theorem slt (rd : Reg) (rs1 : Reg) (rs2 : Reg) : Statement (.slt rd rs1 rs2) := of_opcode (opcodeOf_pack _ _ _ _ _ _) (by decide)
theorem sltu (rd : Reg) (rs1 : Reg) (rs2 : Reg) : Statement (.sltu rd rs1 rs2) := of_opcode (opcodeOf_pack _ _ _ _ _ _) (by decide)
theorem xor (rd : Reg) (rs1 : Reg) (rs2 : Reg) : Statement (.xor rd rs1 rs2) := of_opcode (opcodeOf_pack _ _ _ _ _ _) (by decide)
theorem srl (rd : Reg) (rs1 : Reg) (rs2 : Reg) : Statement (.srl rd rs1 rs2) := of_opcode (opcodeOf_pack _ _ _ _ _ _) (by decide)
theorem sra (rd : Reg) (rs1 : Reg) (rs2 : Reg) : Statement (.sra rd rs1 rs2) := of_opcode (opcodeOf_pack _ _ _ _ _ _) (by decide)
theorem or (rd : Reg) (rs1 : Reg) (rs2 : Reg) : Statement (.or rd rs1 rs2) := of_opcode (opcodeOf_pack _ _ _ _ _ _) (by decide)
theorem and (rd : Reg) (rs1 : Reg) (rs2 : Reg) : Statement (.and rd rs1 rs2) := of_opcode (opcodeOf_pack _ _ _ _ _ _) (by decide)
theorem fadd (frd : Reg) (frs1 : Reg) (frs2 : Reg) (rm : BitVec 3) : Statement (.fadd frd frs1 frs2 rm) := of_opcode (opcodeOf_packF _ _ _ _ _) (by decide)
theorem fsub (frd : Reg) (frs1 : Reg) (frs2 : Reg) (rm : BitVec 3) : Statement (.fsub frd frs1 frs2 rm) := of_opcode (opcodeOf_packF _ _ _ _ _) (by decide)
theorem fmul (frd : Reg) (frs1 : Reg) (frs2 : Reg) (rm : BitVec 3) : Statement (.fmul frd frs1 frs2 rm) := of_opcode (opcodeOf_packF _ _ _ _ _) (by decide)
theorem fdiv (frd : Reg) (frs1 : Reg) (frs2 : Reg) (rm : BitVec 3) : Statement (.fdiv frd frs1 frs2 rm) := of_opcode (opcodeOf_packF _ _ _ _ _) (by decide)
theorem fmin (frd : Reg) (frs1 : Reg) (frs2 : Reg) : Statement (.fmin frd frs1 frs2) := of_opcode (opcodeOf_packF _ _ _ _ _) (by decide)
theorem fmax (frd : Reg) (frs1 : Reg) (frs2 : Reg) : Statement (.fmax frd frs1 frs2) := of_opcode (opcodeOf_packF _ _ _ _ _) (by decide)
theorem fsqrt (frd : Reg) (frs1 : Reg) (rm : BitVec 3) : Statement (.fsqrt frd frs1 rm) := of_opcode (opcodeOf_packF _ _ _ _ _) (by decide)
theorem fsgnj (frd : Reg) (frs1 : Reg) (frs2 : Reg) : Statement (.fsgnj frd frs1 frs2) := of_opcode (opcodeOf_packF _ _ _ _ _) (by decide)
theorem fsgnjn (frd : Reg) (frs1 : Reg) (frs2 : Reg) : Statement (.fsgnjn frd frs1 frs2) := of_opcode (opcodeOf_packF _ _ _ _ _) (by decide)
theorem fsgnjx (frd : Reg) (frs1 : Reg) (frs2 : Reg) : Statement (.fsgnjx frd frs1 frs2) := of_opcode (opcodeOf_packF _ _ _ _ _) (by decide)
theorem feq (rd : Reg) (frs1 : Reg) (frs2 : Reg) : Statement (.feq rd frs1 frs2) := of_opcode (opcodeOf_packF _ _ _ _ _) (by decide)
theorem flt (rd : Reg) (frs1 : Reg) (frs2 : Reg) : Statement (.flt rd frs1 frs2) := of_opcode (opcodeOf_packF _ _ _ _ _) (by decide)
theorem fle (rd : Reg) (frs1 : Reg) (frs2 : Reg) : Statement (.fle rd frs1 frs2) := of_opcode (opcodeOf_packF _ _ _ _ _) (by decide)
theorem fcvt_w_s (rd : Reg) (frs1 : Reg) (rm : BitVec 3) : Statement (.fcvt_w_s rd frs1 rm) := of_opcode (opcodeOf_packF _ _ _ _ _) (by decide)
theorem fcvt_wu_s (rd : Reg) (frs1 : Reg) (rm : BitVec 3) : Statement (.fcvt_wu_s rd frs1 rm) := of_opcode (opcodeOf_packF _ _ _ _ _) (by decide)
theorem fcvt_s_w (frd : Reg) (rs1 : Reg) (rm : BitVec 3) : Statement (.fcvt_s_w frd rs1 rm) := of_opcode (opcodeOf_packF _ _ _ _ _) (by decide)
theorem fcvt_s_wu (frd : Reg) (rs1 : Reg) (rm : BitVec 3) : Statement (.fcvt_s_wu frd rs1 rm) := of_opcode (opcodeOf_packF _ _ _ _ _) (by decide)
theorem fmv_x_s (rd : Reg) (frs1 : Reg) : Statement (.fmv_x_s rd frs1) := of_opcode (opcodeOf_packF _ _ _ _ _) (by decide)
theorem fclass (rd : Reg) (frs1 : Reg) : Statement (.fclass rd frs1) := of_opcode (opcodeOf_packF _ _ _ _ _) (by decide)
theorem fmv_s_x (frd : Reg) (rs1 : Reg) : Statement (.fmv_s_x frd rs1) := of_opcode (opcodeOf_packF _ _ _ _ _) (by decide)
theorem fence (pred : BitVec 4) (succ : BitVec 4) : Statement (.fence pred succ) := of_opcode (opcodeOf_pack _ _ _ _ _ _) (by decide)
theorem fence_i : Statement .fence_i := of_opcode (opcodeOf_packI _ _ _ _ _) (by decide)
theorem ecall : Statement .ecall := of_opcode (opcodeOf_packI _ _ _ _ _) (by decide)
theorem ebreak : Statement .ebreak := of_opcode (opcodeOf_packI _ _ _ _ _) (by decide)
theorem eret : Statement .eret := of_opcode (opcodeOf_packI _ _ _ _ _) (by decide)
theorem wfi : Statement .wfi := of_opcode (opcodeOf_packI _ _ _ _ _) (by decide)
theorem pfi : Statement .pfi := of_opcode (opcodeOf_packI _ _ _ _ _) (by decide)
theorem rdcycle (rd : Reg) : Statement (.rdcycle rd) := of_opcode (opcodeOf_packI _ _ _ _ _) (by decide)
theorem rdcycleh (rd : Reg) : Statement (.rdcycleh rd) := of_opcode (opcodeOf_packI _ _ _ _ _) (by decide)
theorem rdtime (rd : Reg) : Statement (.rdtime rd) := of_opcode (opcodeOf_packI _ _ _ _ _) (by decide)
theorem rdtimeh (rd : Reg) : Statement (.rdtimeh rd) := of_opcode (opcodeOf_packI _ _ _ _ _) (by decide)
theorem rdinstret (rd : Reg) : Statement (.rdinstret rd) := of_opcode (opcodeOf_packI _ _ _ _ _) (by decide)
theorem rdinstreth (rd : Reg) : Statement (.rdinstreth rd) := of_opcode (opcodeOf_packI _ _ _ _ _) (by decide)
theorem csrrw (rd : Reg) (csr : BitVec 12) (rs1 : Reg) : Statement (.csrrw rd csr rs1) := of_opcode (opcodeOf_packI _ _ _ _ _) (by decide)
theorem csrrs (rd : Reg) (csr : BitVec 12) (rs1 : Reg) : Statement (.csrrs rd csr rs1) := of_opcode (opcodeOf_packI _ _ _ _ _) (by decide)
theorem csrrc (rd : Reg) (csr : BitVec 12) (rs1 : Reg) : Statement (.csrrc rd csr rs1) := of_opcode (opcodeOf_packI _ _ _ _ _) (by decide)
theorem csrrwi (rd : Reg) (csr : BitVec 12) (zimm : BitVec 5) : Statement (.csrrwi rd csr zimm) := of_opcode (opcodeOf_packI _ _ _ _ _) (by decide)
theorem csrrsi (rd : Reg) (csr : BitVec 12) (zimm : BitVec 5) : Statement (.csrrsi rd csr zimm) := of_opcode (opcodeOf_packI _ _ _ _ _) (by decide)
theorem csrrci (rd : Reg) (csr : BitVec 12) (zimm : BitVec 5) : Statement (.csrrci rd csr zimm) := of_opcode (opcodeOf_packI _ _ _ _ _) (by decide)
theorem mvseg (rd : Reg) (rs1 : Reg) (rs2 : Reg) : Statement (.mvseg rd rs1 rs2) := of_opcode (opcodeOf_pack _ _ _ _ _ _) (by decide)
theorem mvmap (rd : Reg) (rs1 : Reg) (rs2 : Reg) : Statement (.mvmap rd rs1 rs2) := of_opcode (opcodeOf_pack _ _ _ _ _ _) (by decide)
theorem palloc (rd : Reg) : Statement (.palloc rd) := of_opcode (opcodeOf_pack _ _ _ _ _ _) (by decide)
theorem pfree (rs1 : Reg) : Statement (.pfree rs1) := of_opcode (opcodeOf_pack _ _ _ _ _ _) (by decide)
theorem pfreeall : Statement .pfreeall := of_opcode (opcodeOf_pack _ _ _ _ _ _) (by decide)
theorem setto (rs1 : Reg) (rs2 : Reg) : Statement (.setto rs1 rs2) := of_opcode (opcodeOf_pack _ _ _ _ _ _) (by decide)
theorem getto (rd : Reg) (rs1 : Reg) : Statement (.getto rd rs1) := of_opcode (opcodeOf_pack _ _ _ _ _ _) (by decide)
theorem getzl (rd : Reg) : Statement (.getzl rd) := of_opcode (opcodeOf_pack _ _ _ _ _ _) (by decide)
theorem decto : Statement .decto := of_opcode (opcodeOf_pack _ _ _ _ _ _) (by decide)
theorem insrdy (rs1 : Reg) (rs2 : Reg) : Statement (.insrdy rs1 rs2) := of_opcode (opcodeOf_pack _ _ _ _ _ _) (by decide)
theorem rmvrdy (rs1 : Reg) : Statement (.rmvrdy rs1) := of_opcode (opcodeOf_pack _ _ _ _ _ _) (by decide)
theorem getrdy (rd : Reg) (rs1 : Reg) : Statement (.getrdy rd rs1) := of_opcode (opcodeOf_pack _ _ _ _ _ _) (by decide)
theorem insiof (rs1 : Reg) : Statement (.insiof rs1) := of_opcode (opcodeOf_pack _ _ _ _ _ _) (by decide)
theorem rmviof (rs1 : Reg) : Statement (.rmviof rs1) := of_opcode (opcodeOf_pack _ _ _ _ _ _) (by decide)
theorem nxtiof (rd : Reg) : Statement (.nxtiof rd) := of_opcode (opcodeOf_pack _ _ _ _ _ _) (by decide)
theorem prviof (rd : Reg) : Statement (.prviof rd) := of_opcode (opcodeOf_pack _ _ _ _ _ _) (by decide)
theorem lxx (rd : Reg) (rs1 : Reg) (rs3 : Reg) (sc : BitVec 2) (f3l : BitVec 5) : Statement (.lxx rd rs1 rs3 sc f3l) := of_opcode (opcodeOf_pack _ _ _ _ _ _) (by decide)
theorem sxx (rs2 : Reg) (rs1 : Reg) (rs3 : Reg) (sc : BitVec 2) (f3s : BitVec 5) : Statement (.sxx rs2 rs1 rs3 sc f3s) := of_opcode (opcodeOf_pack _ _ _ _ _ _) (by decide)
theorem call (off : BitVec 20) : Statement (.call off) := of_opcode (opcodeOf_packJ _ _ _) (by decide)
theorem ret : Statement .ret := of_opcode (opcodeOf_packI _ _ _ _ _) (by decide)
theorem bra (off : BitVec 12) : Statement (.bra off) := of_opcode (opcodeOf_packB _ _ _ _ _) (by decide)
theorem beqz (rs1 : Reg) (off : BitVec 12) : Statement (.beqz rs1 off) := of_opcode (opcodeOf_packB _ _ _ _ _) (by decide)
theorem ble (a : Reg) (b : Reg) (off : BitVec 12) : Statement (.ble a b off) := of_opcode (opcodeOf_packB _ _ _ _ _) (by decide)
theorem nop : Statement .nop := of_opcode (opcodeOf_packI _ _ _ _ _) (by decide)
theorem ldi (rd : Reg) (imm : BitVec 12) : Statement (.ldi rd imm) := of_opcode (opcodeOf_packI _ _ _ _ _) (by decide)
theorem mov (rd : Reg) (rs1 : Reg) : Statement (.mov rd rs1) := of_opcode (opcodeOf_pack _ _ _ _ _ _) (by decide)
theorem fmov (frd : Reg) (frs1 : Reg) : Statement (.fmov frd frs1) := of_opcode (opcodeOf_packF _ _ _ _ _) (by decide)
theorem fneg (frd : Reg) (frs1 : Reg) : Statement (.fneg frd frs1) := of_opcode (opcodeOf_packF _ _ _ _ _) (by decide)
theorem fabs (frd : Reg) (frs1 : Reg) : Statement (.fabs frd frs1) := of_opcode (opcodeOf_packF _ _ _ _ _) (by decide)

end Sys2Proof.Laws.OpcodeListed
end

