-- ==== Sys2Proof/Safety.lean ====
section
/-! DEFINITION. The words the statements use: what two states agree on, what an instruction yields, the invariant of the
machine, and what a safe run is. -/

namespace Sys2Proof.Machine

/-! ## What two states agree on -/

/-- Every integer register of every set (10_state.md R24). -/
def IntegerSame (s t : State) : Prop := ∀ b i, t.xval b i = s.xval b i

/-- Every floating-point register (10_state.md R30). -/
def FloatSame (s t : State) : Prop := ∀ i, t.fval i = s.fval i

/-- Every byte of memory, the set of addresses stored to, and the recorded I/O writes. -/
structure MemorySame (s t : State) : Prop where
  bytes    : ∀ a, t.byteAt a = s.byteAt a
  stored   : t.stored = s.stored
  ioWrites : t.ioWrites = s.ioWrites

/-- The counters (10_state.md R42) and what the environment holds. -/
structure OutsideSame (s t : State) : Prop where
  cycle    : t.cycle = s.cycle
  time     : t.time = s.time
  instret  : t.instret = s.instret
  devices  : t.devices = s.devices
  arrivals : t.arrivals = s.arrivals

/-- The registers that only machine mode may write but for traps (10_state.md R46 to R54): timer compare, enabled and pending
sources, scratch, bad address, address space, segment registers, page map. -/
structure GuardedSame (s t : State) : Prop where
  mstatusOther : t.mstatusOther = s.mstatusOther
  mtimecmp : t.mtimecmp = s.mtimecmp
  enabled  : t.enabled = s.enabled
  pending  : t.pending = s.pending
  mscratch : t.mscratch = s.mscratch
  mbadaddr : t.mbadaddr = s.mbadaddr
  asid     : t.asid = s.asid
  seg      : t.seg = s.seg
  pageMap  : t.pageMap = s.pageMap

/-- What a trap writes (60_exceptions.md R380) and ERET restores. -/
structure TrapSame (s t : State) : Prop where
  mode     : t.mode = s.mode
  ie       : t.ie = s.ie
  modePrev : t.modePrev = s.modePrev
  iePrev   : t.iePrev = s.iePrev
  mepc     : t.mepc = s.mepc
  mcause   : t.mcause = s.mcause
  mresume  : t.mresume = s.mresume
  waiting  : t.waiting = s.waiting
  regset   : t.regset = s.regset

/-- Every register but the integer and floating-point files, `pc`, `fflags`: the frame of an ordinary instruction. -/
structure ControlSame (s t : State) : Prop where
  outside : OutsideSame s t
  guarded : GuardedSame s t
  trap    : TrapSame s t
  frm     : t.frm = s.frm

/-! ## What an instruction yields -/

/-- The destination role can be written: x0, or a register of an existing set (10_state.md R22, R27). -/
def Writable (rd : Reg) (s : State) : Prop := rd = 0 ∨ ∃ b, s.roleSet .rd = some b

/-- `x[rd] <- v` and nothing else among the integer registers: the register of the destination role holds `v` (x0 stays zero),
every other register of every set is as before. -/
def WroteX (rd : Reg) (v : Word) (s t : State) : Prop :=
  (∀ b, rd ≠ 0 → s.roleSet .rd = some b → t.xval b rd = v) ∧
  ∀ c i, ¬(rd ≠ 0 ∧ i = rd ∧ s.roleSet .rd = some c) → t.xval c i = s.xval c i

/-- `f[frd]` holds `r` in bits 31..0 (f0 stays zero), every other floating-point register is as before. -/
def WroteF (frd : Reg) (r : Tetra) (s t : State) : Prop :=
  (frd ≠ 0 → t.fsingle frd = r) ∧ ∀ i, (frd = 0 ∨ i ≠ frd) → t.fval i = s.fval i

/-- `i` completes: `v` in the destination, the next instruction follows, nothing else changes. -/
def YieldsX (i : Instr) (s : State) (rd : Reg) (v : Word) : Prop :=
  ∃ t, exec i s = .next t ∧ t.pc = s.pc + 4 ∧ WroteX rd v s t ∧ FloatSame s t ∧ t.fflags = s.fflags ∧ ControlSame s t ∧
    MemorySame s t

/-- `i` completes: `r` in the floating-point destination, flags `fl` accrued, the next instruction follows, nothing else
changes. -/
def YieldsF (i : Instr) (s : State) (frd : Reg) (r : Tetra) (fl : BitVec 5) : Prop :=
  ∃ t, exec i s = .next t ∧ t.pc = s.pc + 4 ∧ WroteF frd r s t ∧ IntegerSame s t ∧ t.fflags = s.fflags ||| fl ∧
    ControlSame s t ∧ MemorySame s t

/-- `i` completes: control goes to `target` and nothing else changes. -/
def YieldsPc (i : Instr) (s : State) (target : Word) : Prop := exec i s = .next { s with pc := target }

/-- `i` completes: the link in the destination, control goes to `target`, nothing else changes. -/
def YieldsLink (i : Instr) (s : State) (rd : Reg) (target : Word) : Prop :=
  ∃ t, exec i s = .next t ∧ t.pc = target ∧ WroteX rd (s.pc + 4) s t ∧ FloatSame s t ∧ t.fflags = s.fflags ∧ ControlSame s t ∧
    MemorySame s t

/-- `i` completes a store of `bytes` at `va`, lowest address first: wherever the bytes' addresses translate, each byte of
memory there holds its byte (an I/O window takes it instead, and the ROM keeps its own), every other byte is as before, the
addresses count as stored to, and nothing else changes. -/
def YieldsStore (i : Instr) (s : State) (va : VAddr) (bytes : List Byte) : Prop :=
  ∀ pas, translateRange va bytes.length .store s = .ok pas →
    ∃ t, exec i s = .next t ∧ t.pc = s.pc + 4 ∧ IntegerSame s t ∧ FloatSame s t ∧ t.fflags = s.fflags ∧ ControlSame s t ∧
      (∀ a, a ∉ pas → t.byteAt a = s.byteAt a) ∧
      (∀ (k : Nat) (a : Nat) (b : Byte), pas[k]? = some a → bytes[k]? = some b →
        t.byteAt a = if s.isWritable a then b else s.byteAt a) ∧
      (∀ a, a ∈ t.stored ↔ a ∈ s.stored ∨ a ∈ pas) ∧
      ((∀ a ∈ pas, s.isDevice a = false) → t.ioWrites = s.ioWrites)

/-- `i` completes: the CSR's old value in the destination, the CSR written with `v`, nothing else changes. -/
def YieldsCsr (i : Instr) (s : State) (rd : Reg) (c : Csr) (v : Word) : Prop :=
  ∃ t u, exec i s = .next t ∧ csrWrite c v s = .ok u ∧ t.pc = s.pc + 4 ∧ WroteX rd (csrRead c s) s t ∧ FloatSame s t ∧
    t.fflags = u.fflags ∧ ControlSame u t ∧ MemorySame s t

/-- `word` is `i`'s, and `i` yields `v` in an integer register. -/
def RunsX (word : Tetra) (i : Instr) (s : State) (rd : Reg) (v : Word) : Prop := decode word = .ok i ∧ YieldsX i s rd v

/-- `word` is `i`'s, and `i` yields `r` in a floating-point register with no flag. -/
def RunsF (word : Tetra) (i : Instr) (s : State) (frd : Reg) (r : Tetra) : Prop := decode word = .ok i ∧ YieldsF i s frd r 0

/-- `word` is `i`'s, and `i` sends control to `target`, changing nothing else. -/
def RunsPc (word : Tetra) (i : Instr) (s : State) (target : Word) : Prop := decode word = .ok i ∧ YieldsPc i s target

/-- `word` is `i`'s, and `i` links and jumps. -/
def RunsLink (word : Tetra) (i : Instr) (s : State) (rd : Reg) (target : Word) : Prop :=
  decode word = .ok i ∧ YieldsLink i s rd target

/-- `word` is `i`'s, and `i` stores. -/
def RunsStore (word : Tetra) (i : Instr) (s : State) (va : VAddr) (bytes : List Byte) : Prop :=
  decode word = .ok i ∧ YieldsStore i s va bytes

/-- The state that taking a trap leaves (60_exceptions.md R380): the saved fields, the mode, the pushed register-set stack, the
target; no other field differs. -/
def TrapTaken (k : TrapKind) (epc : Word) (s t : State) : Prop :=
  t.modePrev = s.mode ∧ t.iePrev = s.ie ∧ t.mode = .machine ∧ t.ie = false ∧ t.mepc = epc ∧ t.mcause = causeCode k s.mode ∧
  t.waiting = false ∧ t.pc = trapTarget k s ∧
  currentSet t.regset = currentSet s.regset + 1 ∧ previousSet t.regset = currentSet s.regset ∧
  t.regset.extractLsb' 0 4 = s.regset.extractLsb' 0 4 ∧ t.regset.extractLsb' 6 10 = s.regset.extractLsb' 4 10 ∧
  IntegerSame s t ∧ FloatSame s t ∧ t.fflags = s.fflags ∧ t.frm = s.frm ∧ t.mresume = s.mresume ∧ OutsideSame s t ∧
  GuardedSame s t ∧ MemorySame s t

/-! ## Sorting the instructions -/

/-- The assembler spellings (30_encoding.md R151, R152). -/
def isSpelling (i : Instr) : Bool :=
  match i with
  | .call _ | .ret | .bra _ | .beqz _ _ | .ble _ _ _ | .nop | .ldi _ _ | .mov _ _ | .fmov _ _ | .fneg _ _
  | .fabs _ _ => true
  | .lui _ _ | .auipc _ _ | .jal _ _ | .jalr _ _ _ | .beq _ _ _ | .bne _ _ _ | .blt _ _ _ | .bge _ _ _
  | .bltu _ _ _ | .bgeu _ _ _ | .lb _ _ _ | .lh _ _ _ | .lw _ _ _ | .lbu _ _ _ | .lhu _ _ _ | .flw _ _ _
  | .sb _ _ _ | .sh _ _ _ | .sw _ _ _ | .fsw _ _ _ | .addi _ _ _ | .slti _ _ _ | .sltui _ _ _ | .xori _ _ _
  | .ori _ _ _ | .andi _ _ _ | .slli _ _ _ | .srli _ _ _ | .srai _ _ _ | .add _ _ _ | .sub _ _ _ | .mul _ _ _
  | .sll _ _ _ | .slt _ _ _ | .sltu _ _ _ | .xor _ _ _ | .srl _ _ _ | .sra _ _ _ | .or _ _ _ | .and _ _ _
  | .fadd _ _ _ _ | .fsub _ _ _ _ | .fmul _ _ _ _ | .fdiv _ _ _ _ | .fmin _ _ _ | .fmax _ _ _ | .fsqrt _ _ _
  | .fsgnj _ _ _ | .fsgnjn _ _ _ | .fsgnjx _ _ _ | .feq _ _ _ | .flt _ _ _ | .fle _ _ _ | .fcvt_w_s _ _ _
  | .fcvt_wu_s _ _ _ | .fcvt_s_w _ _ _ | .fcvt_s_wu _ _ _ | .fmv_x_s _ _ | .fclass _ _ | .fmv_s_x _ _
  | .fence _ _ | .fence_i | .ecall | .ebreak | .eret | .wfi | .pfi | .rdcycle _ | .rdcycleh _ | .rdtime _
  | .rdtimeh _ | .rdinstret _ | .rdinstreth _ | .csrrw _ _ _ | .csrrs _ _ _ | .csrrc _ _ _ | .csrrwi _ _ _
  | .csrrsi _ _ _ | .csrrci _ _ _ | .mvseg _ _ _ | .mvmap _ _ _ | .palloc _ | .pfree _ | .pfreeall | .setto _ _
  | .getto _ _ | .getzl _ | .decto | .insrdy _ _ | .rmvrdy _ | .getrdy _ _ | .insiof _ | .rmviof _ | .nxtiof _
  | .prviof _ | .lxx _ _ _ _ _ | .sxx _ _ _ _ _ => false

/-- The rows with an encoding and no description (45_custom.md R349), each with its mnemonic. -/
def undescribedName (i : Instr) : Option String :=
  match i with
  | .palloc _ => some "PALLOC"
  | .pfree _ => some "PFREE"
  | .pfreeall => some "PFREEALL"
  | .setto _ _ => some "SETTO"
  | .getto _ _ => some "GETTO"
  | .getzl _ => some "GETZL"
  | .decto => some "DECTO"
  | .insrdy _ _ => some "INSRDY"
  | .rmvrdy _ => some "RMVRDY"
  | .getrdy _ _ => some "GETRDY"
  | .insiof _ => some "INSIOF"
  | .rmviof _ => some "RMVIOF"
  | .nxtiof _ => some "NXTIOF"
  | .prviof _ => some "PRVIOF"
  | .lxx _ _ _ _ _ => some "LxX"
  | .sxx _ _ _ _ _ => some "SxX"
  | _ => none

/-- The machine-only instructions other than CSR accesses (44_machine_mode.md R319). -/
def isMachineOnly (i : Instr) : Bool :=
  match i with
  | .eret | .wfi | .pfi | .mvseg _ _ _ | .mvmap _ _ _ => true
  | _ => (undescribedName i).isSome

/-- The instructions that can move `pc` elsewhere than to the next instruction (10_state.md R34), and WFI, which can keep it. -/
def movesPc (i : Instr) : Bool :=
  match i with
  | .jal _ _ | .jalr _ _ _ | .beq _ _ _ | .bne _ _ _ | .blt _ _ _ | .bge _ _ _ | .bltu _ _ _ | .bgeu _ _ _
  | .ecall | .ebreak | .eret | .wfi | .pfi | .call _ | .ret | .bra _ | .beqz _ _ | .ble _ _ _ => true
  | .lui _ _ | .auipc _ _ | .lb _ _ _ | .lh _ _ _ | .lw _ _ _ | .lbu _ _ _ | .lhu _ _ _ | .flw _ _ _
  | .sb _ _ _ | .sh _ _ _ | .sw _ _ _ | .fsw _ _ _ | .addi _ _ _ | .slti _ _ _ | .sltui _ _ _ | .xori _ _ _
  | .ori _ _ _ | .andi _ _ _ | .slli _ _ _ | .srli _ _ _ | .srai _ _ _ | .add _ _ _ | .sub _ _ _ | .mul _ _ _
  | .sll _ _ _ | .slt _ _ _ | .sltu _ _ _ | .xor _ _ _ | .srl _ _ _ | .sra _ _ _ | .or _ _ _ | .and _ _ _
  | .fadd _ _ _ _ | .fsub _ _ _ _ | .fmul _ _ _ _ | .fdiv _ _ _ _ | .fmin _ _ _ | .fmax _ _ _ | .fsqrt _ _ _
  | .fsgnj _ _ _ | .fsgnjn _ _ _ | .fsgnjx _ _ _ | .feq _ _ _ | .flt _ _ _ | .fle _ _ _ | .fcvt_w_s _ _ _
  | .fcvt_wu_s _ _ _ | .fcvt_s_w _ _ _ | .fcvt_s_wu _ _ _ | .fmv_x_s _ _ | .fclass _ _ | .fmv_s_x _ _
  | .fence _ _ | .fence_i | .rdcycle _ | .rdcycleh _ | .rdtime _ | .rdtimeh _ | .rdinstret _ | .rdinstreth _
  | .csrrw _ _ _ | .csrrs _ _ _ | .csrrc _ _ _ | .csrrwi _ _ _ | .csrrsi _ _ _ | .csrrci _ _ _ | .mvseg _ _ _
  | .mvmap _ _ _ | .palloc _ | .pfree _ | .pfreeall | .setto _ _ | .getto _ _ | .getzl _ | .decto | .insrdy _ _
  | .rmvrdy _ | .getrdy _ _ | .insiof _ | .rmviof _ | .nxtiof _ | .prviof _ | .lxx _ _ _ _ _ | .sxx _ _ _ _ _
  | .nop | .ldi _ _ | .mov _ _ | .fmov _ _ | .fneg _ _ | .fabs _ _ => false

/-- The stores (42_memory_instructions.md section 3). -/
def isStore (i : Instr) : Bool :=
  match i with
  | .sb _ _ _ | .sh _ _ _ | .sw _ _ _ | .fsw _ _ _ => true
  | _ => false

/-- The CSR instructions (44_machine_mode.md section 4). -/
def isCsrInstr (i : Instr) : Bool :=
  match i with
  | .csrrw _ _ _ | .csrrs _ _ _ | .csrrc _ _ _ | .csrrwi _ _ _ | .csrrsi _ _ _ | .csrrci _ _ _ => true
  | _ => false

/-- The CSRs a CSR instruction may write with an effect the source gives (44_machine_mode.md R311). -/
def csrWritable (c : Csr) : Bool :=
  match c with
  | .fflags | .frm | .fcsr | .mstatus | .mie | .mtimecmp | .mscratch | .mepc | .mcause | .mbadaddr | .asid | .regset => true
  | _ => false

/-! ## The value of a single-precision pattern (43_floating_point.md section 4) -/

/-- A real number in units of 2^-149, or an infinity. -/
abbrev FpValue := WithBot (WithTop Int)

/-- `val(p)` of a pattern that is not a NaN: both zeros are 0, exponent all ones is an infinity (section 4, R250 (d)). -/
def fpValue (p : Tetra) : FpValue :=
  if fpExponent p = 0xFF then (if p.msb then ⊥ else ((⊤ : WithTop Int) : FpValue))
  else if p.msb then (((-(fpMagnitude p : Int) : Int) : WithTop Int) : FpValue)
  else (((fpMagnitude p : Int) : WithTop Int) : FpValue)

/-! ## The invariant and safe runs -/

/-- What every step keeps: memory, the set of stored addresses and the page map in canonical form and within the address
spaces; the hard-wired registers zero in storage; waiting only in machine mode; pending and enabled sets of sources the machine
has (60_exceptions.md R390). -/
structure MachineInv (s : State) : Prop where
  memory  : Memory.wf s.mem = true
  memTop  : ∀ c ∈ s.mem, c.1 < 2 ^ 44
  stored  : addressesRising s.stored = true
  pageMap : PageMap.wf s.pageMap = true
  mapTop  : ∀ c ∈ s.pageMap, c.1 < 64 * 2 ^ mapIndexBits
  x0      : s.xset0[0] = 0 ∧ s.xset1[0] = 0 ∧ s.xset2[0] = 0
  f0      : s.freg[0] = 0
  waiting : s.waiting = true → s.mode = .machine
  pending : s.pending &&& ~~~sources = 0
  enabled : s.enabled &&& ~~~sources = 0

/-- The state after `n` steps, if none of them stops. -/
def runFor : Nat → State → Option State
  | 0, s => some s
  | n + 1, s =>
    match step s with
    | .next t => runFor n t
    | _ => none

/-- A safe run: no fault and no refusal within `n` steps. -/
def SafeFor (n : Nat) (s : State) : Prop := (runFor n s).isSome = true

end Sys2Proof.Machine
end

