-- ==== Sys2Proof/Certificates/Slice0/Obligations.lean ====
section
/-! DEFINITION. The statements for the provers. Each docstring names the rules of spec/ a statement formalises; where a clause
is the model's choice, the log entry (notes/assumptions/<n>.md) is named. -/

section

open Sys2Proof Sys2Proof.Machine

/-! ## Reset and the invariant -/

/-- 70_reset_and_hazards.md R420: the three things reset sets, and the WFI wait it ends. -/
def Obligations.ResetState : Prop :=
  State.reset.pc = 0x00000000FFFC0100 ∧ State.reset.mode = .machine ∧ State.reset.ie = false ∧
    State.reset.waiting = false

/-- The machine after reset meets the invariant. -/
def Obligations.ResetMeetsInvariant : Prop := MachineInv State.reset

/-- Every step keeps the invariant: canonical memory and page map within their address spaces, x0 of each register set and f0
zero, waiting only in machine mode, pending and enabled sets of sources the machine has (10_state.md R22, R24, R31, R54;
44_machine_mode.md R319; 60_exceptions.md R390). -/
def Obligations.StepKeepsInvariant : Prop := ∀ s t : State, MachineInv s → step s = .next t → MachineInv t

/-! ## Registers -/

/-- 10_state.md R22, R31: x0 reads as zero in every register set and every role, f0 reads as positive zero, and a write to either
is discarded. -/
def Obligations.ZeroRegisters : Prop :=
  ∀ s : State, (∀ b, s.xval b 0 = 0) ∧ (∀ role, readX role 0 s = .ok 0) ∧ (∀ v, writeX 0 v s = .ok s) ∧
    s.fval 0 = 0 ∧ ∀ r, s.setF 0 r = s

/-- 10_state.md R25, R26, R27: each operand role has its select bit in `regset` (Rd 0, Rs1 1, Rs2 2, Rs3 3: R25 derives this
from the figure); a 1 selects the current set (bits 5:4), a 0 the previous one (bits 7:6: the spec's own choice, R26, decision
D26, entry 24); set 3 is a fault, for a read and for a write (entry 33). -/
def Obligations.OperandSelection : Prop :=
  ∀ (s : State) (i : Reg) (role : Role), i ≠ 0 →
    let bit := match role with
      | .rd => 0
      | .rs1 => 1
      | .rs2 => 2
      | .rs3 => 3
    let n := if s.regset.getLsbD bit then s.regset.extractLsb' 4 2 else s.regset.extractLsb' 6 2
    (n = 0 → readX role i s = .ok (s.xset0[i.toNat]'i.isLt)) ∧
    (n = 1 → readX role i s = .ok (s.xset1[i.toNat]'i.isLt)) ∧
    (n = 2 → readX role i s = .ok (s.xset2[i.toNat]'i.isLt)) ∧
    (n = 3 → readX role i s = .error .regsetInvalid) ∧
    (role = .rd → n = 3 → ∀ v, writeX i v s = .error .regsetInvalid) ∧
    (role = .rd → n = 0 → ∀ v, writeX i v s = .ok { s with xset0 := s.xset0.set i.toNat v i.isLt }) ∧
    (role = .rd → n = 1 → ∀ v, writeX i v s = .ok { s with xset1 := s.xset1.set i.toNat v i.isLt }) ∧
    (role = .rd → n = 2 → ∀ v, writeX i v s = .ok { s with xset2 := s.xset2.set i.toNat v i.isLt })

/-- 10_state.md R23, R27: an instruction writes integer registers of no set but the one its destination role selects. -/
def Obligations.IntegerWritesConfined : Prop :=
  ∀ (i : Instr) (s t : State) (c : RegSet), exec i s = .next t → s.roleSet .rd ≠ some c → ∀ j, t.xval c j = s.xval c j

/-! ## Encoding -/

/-- Words written out from the spec's own examples decode to what they stand for (30_encoding.md R121 to R132). The words of SRAI
and of the refusal rest on the six-bit shift distance, the spec's own choice (R127, 90_conflicts.md C9, entry 22). -/
def Obligations.DecodesSpecWords : Prop :=
  decode 0x123452B7 = .ok (.lui 5 0x12345) ∧
  decode 0x00001317 = .ok (.auipc 6 1) ∧
  decode 0x346120EF = .ok (.jal 1 (0x12346 / 2)) ∧
  decode 0x006280E7 = .ok (.jalr 1 5 6) ∧
  decode 0xFE209CE3 = .ok (.bne 1 2 (-4)) ∧
  decode 0x0040A183 = .ok (.lw 3 1 4) ∧
  decode 0x7E20AFA3 = .ok (.sw 2 1 2047) ∧
  decode 0xFFF08193 = .ok (.addi 3 1 (-1)) ∧
  decode 0x4040D193 = .ok (.srai 3 1 4) ∧
  decode 0x402081B3 = .ok (.sub 3 1 2) ∧
  decode 0x0020F1D3 = .ok (.fadd 3 1 2 7) ∧
  decode 0xC00011F3 = .ok (.rdcycle 3) ∧
  decode 0x790FD073 = .ok (.csrrwi 0 0x790 31) ∧
  decode 0x0220818D = .ok (.mvmap 3 1 2) ∧
  decode 0x2420A10D = .ok (.sxx 2 1 4 2 2) ∧
  decode 0x2040D193 = .error .unlistedEncoding

/-- Decoding an encoded well-formed instruction gives it back; an assembler spelling gives what it stands for
(30_encoding.md R121 to R132, R142, R151). -/
def Obligations.DecodeEncode : Prop :=
  ∀ i : Instr, WellFormed i → decode (encode i) = .ok i.core ∧ decodeBytes (encodeBytes i) = .ok i.core ∧
    (isSpelling i = false → i.core = i)

/-- The other direction: a word that decodes is the encoding of what it decodes to, so no bit of a listed word is ignored and a
word with a wrong fixed field is refused (30_encoding.md R143, R144); the decoder never answers a spelling (R142). That fixed
fields are part of the match is the spec's own choice (decision D17, entry 36). -/
def Obligations.EncodeDecode : Prop :=
  ∀ (w : Tetra) (i : Instr), decode w = .ok i → encode i = w ∧ WellFormed i ∧ isSpelling i = false

/-- 30_encoding.md R151, R152: an assembler spelling does, in every state, what the instruction it stands for does. -/
def Obligations.SpellingsMeanCore : Prop := ∀ (i : Instr) (s : State), exec i s = exec i.core s ∧ isSpelling i.core = false

/-! ## Steps -/

/-- A step runs the decoded instruction: when the hart is not waiting, no interrupt is accepted, and the bytes at `pc` decode to
`i`, the step is `exec i` of the fetched state, which differs from the state before in the counters, the pending sources, the
arrivals and the draw counter alone (60_exceptions.md R392, 70_reset_and_hazards.md R430; entries 6, 7). -/
def Obligations.StepRunsDecoded : Prop :=
  ∀ (s : State) (i : Instr) (bytes : List Byte) (q : State), s.waiting = false → ¬(s.ie = true ∧ intRequest s.boundary = true) →
    fetchBytes s.boundary = .ok (bytes, q) → decodeBytes bytes = .ok i →
    step s = exec i q ∧
    q = { s with cycle := q.cycle, time := q.time, instret := q.instret, pending := q.pending, arrivals := q.arrivals,
                 draws := q.draws }

/-- 20_memory.md R72, R78, R85: an aligned fetch outside the I/O windows delivers the bytes at the four translated addresses, in
machine mode those at `pc[31:0]`. It stops with a translation's fault; on a misaligned `pc` (R35 of 10_state.md, entry 33); on a
byte this hart has stored to (R103, `IFETCH_COHERENT` at its default, entry 4); and bytes that decode to nothing stop it
(30_encoding.md R143, R144, entry 36). These stops are choices of the spec and the model, not events of the hardware. -/
def Obligations.FetchReadsAndStops : Prop :=
  (∀ (s : State) (pas : List Nat), s.pc.extractLsb' 0 2 = 0 → translateRange (s.pc.setWidth 32) 4 .fetch s = .ok pas →
    ((∀ a ∈ pas, s.isDevice a = false ∧ a ∉ s.stored) → fetchBytes s = .ok (pas.map s.byteAt, s)) ∧
    ((∃ a ∈ pas, a ∈ s.stored) → fetchInstr s = .error .fetchAfterStore)) ∧
  (∀ (s : State) (f : Fault), s.pc.extractLsb' 0 2 = 0 → translateRange (s.pc.setWidth 32) 4 .fetch s = .error f →
    fetchInstr s = .error f) ∧
  (∀ s : State, s.mode = .machine → s.pc.extractLsb' 0 2 = 0 →
    (∀ k < 4, s.isDevice (s.pc.toNat % 2 ^ 32 + k) = false ∧ s.pc.toNat % 2 ^ 32 + k ∉ s.stored) →
    fetchBytes s = .ok ([s.byteAt (s.pc.toNat % 2 ^ 32), s.byteAt (s.pc.toNat % 2 ^ 32 + 1),
      s.byteAt (s.pc.toNat % 2 ^ 32 + 2), s.byteAt (s.pc.toNat % 2 ^ 32 + 3)], s)) ∧
  (∀ s : State, s.pc.extractLsb' 0 2 ≠ 0 → fetchInstr s = .error .fetchMisaligned) ∧
  (∀ (s : State) (k : Nat), s.mode = .machine → s.pc.extractLsb' 0 2 = 0 → k < 4 → s.pc.toNat % 2 ^ 32 + k ∈ s.stored →
    fetchInstr s = .error .fetchAfterStore) ∧
  (∀ (s : State) (bytes : List Byte) (q : State), fetchBytes s = .ok (bytes, q) → decodeBytes bytes = .error .unlistedEncoding →
    fetchInstr s = .error .unlistedEncoding) ∧
  (∀ (s : State) (f : Fault), s.waiting = false → s.ie = false → fetchInstr s.boundary = .error f → step s = .fault f)

/-- The load of an instruction from outside the machine (entry 29): after `State.withFetchWord`, in machine mode at an aligned
`pc` without I/O windows, the very next step runs that instruction. -/
def Obligations.LoadedWordRuns : Prop :=
  ∀ (i : Instr) (s : State), WellFormed i → s.mode = .machine → s.pc.extractLsb' 0 2 = 0 → s.devices = [] → addressesRising s.stored = true →
    step (s.withFetchWord 32 (encode i).toNat) = exec i.core (s.withFetchWord 32 (encode i).toNat).boundary

/-- 60_exceptions.md R393, R304: while the hart waits nothing executes and `cycle` and `instret` stand still; when a pending and
enabled source is present the wait ends, in the next instruction with interrupts disabled and in the interrupt's trap with
`epc` = `pc` + 4 with interrupts enabled, which in machine mode rests on the supplied target (DESIGN CHOICE, entry 10: the spec's
default there is a fault, R381); where the current register set is 2, or 3 (DEDUCED, entry 11), the push stops it (R380). -/
def Obligations.WaitingStep : Prop :=
  ∀ s : State, s.waiting = true →
    (s.boundary.pending &&& s.boundary.enabled = 0 →
      step s = .next s.boundary ∧ s.boundary.pc = s.pc ∧ s.boundary.waiting = true ∧ s.boundary.cycle = s.cycle ∧
        s.boundary.instret = s.instret ∧ IntegerSame s s.boundary ∧ FloatSame s s.boundary ∧ MemorySame s s.boundary ∧
        TrapSame s s.boundary) ∧
    (s.boundary.pending &&& s.boundary.enabled ≠ 0 → s.ie = false →
      step s = .next { s.boundary with waiting := false, pc := s.pc + 4 }) ∧
    (s.boundary.pending &&& s.boundary.enabled ≠ 0 → s.ie = true → (currentSet s.regset).toNat < 2 →
      ∃ (k : Fin 64) (t : State), s.boundary.pending.getLsbD k.val = true ∧ s.boundary.enabled.getLsbD k.val = true ∧
        step s = .next t ∧ TrapTaken (.interrupt k) (s.pc + 4) s.boundary t) ∧
    (s.boundary.pending &&& s.boundary.enabled ≠ 0 → s.ie = true → ¬(currentSet s.regset).toNat < 2 →
      step s = .fault .regsetInvalid)

/-- 60_exceptions.md R392: with `ie` = 1 and a pending and enabled source at the boundary, the step takes the interrupt of such a
source with `epc` = `pc` instead of the instruction, which in machine mode rests on the supplied target (DESIGN CHOICE, entry 10:
the spec's default there is a fault, R381); where the current register set is 2, or 3 (DEDUCED, entry 11), the push stops it
(R380). -/
def Obligations.InterruptTaken : Prop :=
  ∀ s : State, s.waiting = false → s.ie = true → s.boundary.pending &&& s.boundary.enabled ≠ 0 →
    ((currentSet s.regset).toNat < 2 →
      ∃ (k : Fin 64) (t : State), s.boundary.pending.getLsbD k.val = true ∧ s.boundary.enabled.getLsbD k.val = true ∧
        step s = .next t ∧ TrapTaken (.interrupt k) s.pc s.boundary t) ∧
    (¬(currentSet s.regset).toNat < 2 → step s = .fault .regsetInvalid)

/-! ## Integer instructions -/

/-- 40_integer.md R161, R162: LUI and AUIPC; the 32-bit value is sign-extended (entry 21), AUIPC adds it to the whole `pc`
(entry 35). -/
def Obligations.UpperImmediates : Prop :=
  ∀ (rd : Reg) (imm : BitVec 20) (s : State), Writable rd s →
    RunsX (packU imm rd 0b0110111) (.lui rd imm) s rd ((imm ++ (0 : BitVec 12)).signExtend 64) ∧
    RunsX (packU imm rd 0b0010111) (.auipc rd imm) s rd (s.pc + (imm ++ (0 : BitVec 12)).signExtend 64)

/-- 40_integer.md R163, R164, R166, R167, R168: ADDI, SLTI, XORI, ORI, ANDI, with the spellings NOP and LDI. That these rows do
what their mnemonics say is PRESUMED (entry 31), and that the immediates are sign-extended is the spec's own choice
(entry 21). -/
def Obligations.ImmediateArithmetic : Prop :=
  (∀ (rd rs1 : Reg) (imm : BitVec 12) (s : State) (a : Word), readX .rs1 rs1 s = .ok a → Writable rd s →
    RunsX (packI imm rs1 0 rd 19) (.addi rd rs1 imm) s rd (a + imm.signExtend 64) ∧
    RunsX (packI imm rs1 2 rd 19) (.slti rd rs1 imm) s rd (if a.toInt < imm.toInt then 1 else 0) ∧
    RunsX (packI imm rs1 4 rd 19) (.xori rd rs1 imm) s rd (a ^^^ imm.signExtend 64) ∧
    RunsX (packI imm rs1 6 rd 19) (.ori rd rs1 imm) s rd (a ||| imm.signExtend 64) ∧
    RunsX (packI imm rs1 7 rd 19) (.andi rd rs1 imm) s rd (a &&& imm.signExtend 64)) ∧
  (∀ (rd : Reg) (imm : BitVec 12) (s : State), Writable rd s → YieldsX (.ldi rd imm) s rd (imm.signExtend 64)) ∧
  (∀ s : State, YieldsPc .nop s (s.pc + 4))

/-- 40_integer.md R169, R170, R171: SLLI, SRLI, SRAI, with a six-bit distance (90_conflicts.md C9). -/
def Obligations.ImmediateShifts : Prop :=
  ∀ (rd rs1 : Reg) (shamt : BitVec 6) (s : State) (a : Word), readX .rs1 rs1 s = .ok a → Writable rd s →
    RunsX (packShift 0 shamt rs1 1 rd 19) (.slli rd rs1 shamt) s rd (a <<< shamt.toNat) ∧
    RunsX (packShift 0 shamt rs1 5 rd 19) (.srli rd rs1 shamt) s rd (a >>> shamt.toNat) ∧
    RunsX (packShift 16 shamt rs1 5 rd 19) (.srai rd rs1 shamt) s rd (BitVec.ofInt 64 (a.toInt / 2 ^ shamt.toNat))

/-- 40_integer.md R172, R176, R178, R181, R182: ADD, SLT, XOR, OR, AND, with the spelling MOV. -/
def Obligations.RegisterArithmetic : Prop :=
  (∀ (rd rs1 rs2 : Reg) (s : State) (a b : Word), readX .rs1 rs1 s = .ok a → readX .rs2 rs2 s = .ok b → Writable rd s →
    RunsX (pack 0 rs2 rs1 0 rd 51) (.add rd rs1 rs2) s rd (a + b) ∧
    RunsX (pack 0 rs2 rs1 2 rd 51) (.slt rd rs1 rs2) s rd (if a.toInt < b.toInt then 1 else 0) ∧
    RunsX (pack 0 rs2 rs1 4 rd 51) (.xor rd rs1 rs2) s rd (a ^^^ b) ∧
    RunsX (pack 0 rs2 rs1 6 rd 51) (.or rd rs1 rs2) s rd (a ||| b) ∧
    RunsX (pack 0 rs2 rs1 7 rd 51) (.and rd rs1 rs2) s rd (a &&& b)) ∧
  (∀ (rd rs1 : Reg) (s : State) (a : Word), readX .rs1 rs1 s = .ok a → Writable rd s → YieldsX (.mov rd rs1) s rd a)

/-- The spec's own reading of four rows without a description, from their mnemonics (40_integer.md R165, R173, R174, R177, R185;
entry 31): SLTUI, SUB, MUL, SLTU. -/
def Obligations.MnemonicArithmetic : Prop :=
  ∀ (rd rs1 rs2 : Reg) (imm : BitVec 12) (s : State) (a : Word), readX .rs1 rs1 s = .ok a → Writable rd s →
    RunsX (packI imm rs1 3 rd 19) (.sltui rd rs1 imm) s rd (if a.toNat < (imm.signExtend 64).toNat then 1 else 0) ∧
    ∀ b, readX .rs2 rs2 s = .ok b →
      RunsX (pack 32 rs2 rs1 0 rd 51) (.sub rd rs1 rs2) s rd (BitVec.ofInt 64 (a.toInt - b.toInt)) ∧
      RunsX (pack 1 rs2 rs1 0 rd 51) (.mul rd rs1 rs2) s rd (BitVec.ofInt 64 (a.toInt * b.toInt)) ∧
      RunsX (pack 0 rs2 rs1 3 rd 51) (.sltu rd rs1 rs2) s rd (if a.toNat < b.toNat then 1 else 0)

/-- 40_integer.md R175, R179, R180: SLL, SRL, SRA, with the distance in the low six bits of Rs2 (entry 22). -/
def Obligations.RegisterShifts : Prop :=
  ∀ (rd rs1 rs2 : Reg) (s : State) (a b : Word), readX .rs1 rs1 s = .ok a → readX .rs2 rs2 s = .ok b → Writable rd s →
    RunsX (pack 0 rs2 rs1 1 rd 51) (.sll rd rs1 rs2) s rd (a <<< (b.toNat % 64)) ∧
    RunsX (pack 0 rs2 rs1 5 rd 51) (.srl rd rs1 rs2) s rd (a >>> (b.toNat % 64)) ∧
    RunsX (pack 32 rs2 rs1 5 rd 51) (.sra rd rs1 rs2) s rd (BitVec.ofInt 64 (a.toInt / 2 ^ (b.toNat % 64)))

/-! ## Control flow -/

/-- 41_control_flow.md R201, R202: JAL and JALR with the spellings CALL and RET; the two low bits of the target are zero, Rs1 is
read before Rd is written. -/
def Obligations.Jumps : Prop :=
  (∀ (rd : Reg) (off : BitVec 20) (s : State), Writable rd s →
    RunsLink (packJ off rd 111) (.jal rd off) s rd
      ((s.pc + (off ++ (0 : BitVec 1)).signExtend 64).extractLsb' 2 62 ++ (0 : BitVec 2))) ∧
  (∀ (rd rs1 : Reg) (imm : BitVec 12) (s : State) (a : Word), readX .rs1 rs1 s = .ok a → Writable rd s →
    RunsLink (packI imm rs1 0 rd 103) (.jalr rd rs1 imm) s rd
      ((a + imm.signExtend 64).extractLsb' 2 62 ++ (0 : BitVec 2))) ∧
  (∀ (off : BitVec 20) (s : State), Writable 1 s →
    YieldsLink (.call off) s 1 ((s.pc + (off ++ (0 : BitVec 1)).signExtend 64).extractLsb' 2 62 ++ (0 : BitVec 2))) ∧
  (∀ (s : State) (a : Word), readX .rs1 1 s = .ok a → YieldsPc .ret s (a.extractLsb' 2 62 ++ (0 : BitVec 2)))

/-- 41_control_flow.md R203 to R208: the six branches with the spellings BEQZ, BRA and BLE; they write no register. -/
def Obligations.Branches : Prop :=
  (∀ (rs1 rs2 : Reg) (off : BitVec 12) (s : State) (a b : Word), readX .rs1 rs1 s = .ok a → readX .rs2 rs2 s = .ok b →
    let taken := s.pc + (off ++ (0 : BitVec 1)).signExtend 64
    RunsPc (packB off rs2 rs1 0 99) (.beq rs1 rs2 off) s (if a = b then taken else s.pc + 4) ∧
    RunsPc (packB off rs2 rs1 1 99) (.bne rs1 rs2 off) s (if a ≠ b then taken else s.pc + 4) ∧
    RunsPc (packB off rs2 rs1 4 99) (.blt rs1 rs2 off) s (if a.toInt < b.toInt then taken else s.pc + 4) ∧
    RunsPc (packB off rs2 rs1 5 99) (.bge rs1 rs2 off) s (if a.toInt ≥ b.toInt then taken else s.pc + 4) ∧
    RunsPc (packB off rs2 rs1 6 99) (.bltu rs1 rs2 off) s (if a.toNat < b.toNat then taken else s.pc + 4) ∧
    RunsPc (packB off rs2 rs1 7 99) (.bgeu rs1 rs2 off) s (if a.toNat ≥ b.toNat then taken else s.pc + 4) ∧
    YieldsPc (.ble rs2 rs1 off) s (if b.toInt ≤ a.toInt then taken else s.pc + 4)) ∧
  (∀ (rs1 : Reg) (off : BitVec 12) (s : State) (a : Word), readX .rs1 rs1 s = .ok a →
    YieldsPc (.beqz rs1 off) s (if a = 0 then s.pc + (off ++ (0 : BitVec 1)).signExtend 64 else s.pc + 4)) ∧
  (∀ (off : BitVec 12) (s : State), YieldsPc (.bra off) s (s.pc + (off ++ (0 : BitVec 1)).signExtend 64))

/-- 41_control_flow.md R209, R210: FENCE, for every pred and succ, and FENCE.I change `pc` and nothing else. That the word of
FENCE has four bits for each of pred and succ and fixes the others is the spec's own choice (30_encoding.md R130, R144,
entry 36). -/
def Obligations.Fences : Prop :=
  ∀ (pred succ : BitVec 4) (s : State),
    RunsPc (packFence pred succ) (.fence pred succ) s (s.pc + 4) ∧ RunsPc 0x0000100F .fence_i s (s.pc + 4)

/-! ## Memory -/

/-- 42_memory_instructions.md R231 to R236, 20_memory.md R71, R73: each load puts the bytes read at its effective address, the
lowest one lowest, into its destination, extended as its rule says (LW: entry 21), and changes nothing else. -/
def Obligations.Loads : Prop :=
  ∀ (rd rs1 : Reg) (imm : BitVec 12) (s : State) (a : Word), readX .rs1 rs1 s = .ok a →
    (∀ b0 q, memRead (effectiveAddress a imm) 1 s = .ok ([b0], q) → Writable rd s →
      RunsX (packI imm rs1 0 rd 3) (.lb rd rs1 imm) s rd (b0.signExtend 64) ∧
      RunsX (packI imm rs1 4 rd 3) (.lbu rd rs1 imm) s rd (b0.setWidth 64)) ∧
    (∀ b0 b1 q, memRead (effectiveAddress a imm) 2 s = .ok ([b0, b1], q) → Writable rd s →
      RunsX (packI imm rs1 1 rd 3) (.lh rd rs1 imm) s rd ((b1 ++ b0).signExtend 64) ∧
      RunsX (packI imm rs1 5 rd 3) (.lhu rd rs1 imm) s rd ((b1 ++ b0).setWidth 64)) ∧
    (∀ b0 b1 b2 b3 q, memRead (effectiveAddress a imm) 4 s = .ok ([b0, b1, b2, b3], q) →
      (Writable rd s → RunsX (packI imm rs1 2 rd 3) (.lw rd rs1 imm) s rd ((b3 ++ b2 ++ b1 ++ b0).signExtend 64)) ∧
      RunsF (packI imm rs1 2 rd 7) (.flw rd rs1 imm) s rd (b3 ++ b2 ++ b1 ++ b0))

/-- 42_memory_instructions.md R237 to R240, 20_memory.md R71, R73, R77, R103: each store puts the low bytes of its source, the
lowest one first, at its effective address and changes nothing else. An I/O window takes its bytes instead of memory (R79) and a
byte of the ROM stays (R80), the model's choices of entry 3; the addresses count as stored to (entry 4). -/
def Obligations.Stores : Prop :=
  ∀ (rs2 rs1 : Reg) (imm : BitVec 12) (s : State) (a : Word), readX .rs1 rs1 s = .ok a →
    (∀ b, readX .rs2 rs2 s = .ok b →
      RunsStore (packS imm rs2 rs1 0 35) (.sb rs2 rs1 imm) s (effectiveAddress a imm) [b.extractLsb' 0 8] ∧
      RunsStore (packS imm rs2 rs1 1 35) (.sh rs2 rs1 imm) s (effectiveAddress a imm)
        [b.extractLsb' 0 8, b.extractLsb' 8 8] ∧
      RunsStore (packS imm rs2 rs1 2 35) (.sw rs2 rs1 imm) s (effectiveAddress a imm)
        [b.extractLsb' 0 8, b.extractLsb' 8 8, b.extractLsb' 16 8, b.extractLsb' 24 8]) ∧
    RunsStore (packS imm rs2 rs1 2 39) (.fsw rs2 rs1 imm) s (effectiveAddress a imm)
      [(s.fval rs2).extractLsb' 0 8, (s.fval rs2).extractLsb' 8 8, (s.fval rs2).extractLsb' 16 8,
        (s.fval rs2).extractLsb' 24 8]

/-- 20_memory.md R76, R77: an access one of whose bytes does not translate stops with that byte's fault, before any byte is
written (entry 33). -/
def Obligations.AccessFaults : Prop :=
  ∀ (r rs1 : Reg) (imm : BitVec 12) (s : State) (a : Word) (f : Fault), readX .rs1 rs1 s = .ok a →
    (translateRange (effectiveAddress a imm) 1 .load s = .error f →
      exec (.lb r rs1 imm) s = .fault f ∧ exec (.lbu r rs1 imm) s = .fault f) ∧
    (translateRange (effectiveAddress a imm) 2 .load s = .error f →
      exec (.lh r rs1 imm) s = .fault f ∧ exec (.lhu r rs1 imm) s = .fault f) ∧
    (translateRange (effectiveAddress a imm) 4 .load s = .error f →
      exec (.lw r rs1 imm) s = .fault f ∧ exec (.flw r rs1 imm) s = .fault f) ∧
    (∀ b, readX .rs2 r s = .ok b →
      (translateRange (effectiveAddress a imm) 1 .store s = .error f → exec (.sb r rs1 imm) s = .fault f) ∧
      (translateRange (effectiveAddress a imm) 2 .store s = .error f → exec (.sh r rs1 imm) s = .fault f) ∧
      (translateRange (effectiveAddress a imm) 4 .store s = .error f → exec (.sw r rs1 imm) s = .fault f)) ∧
    (translateRange (effectiveAddress a imm) 4 .store s = .error f → exec (.fsw r rs1 imm) s = .fault f)

/-- 20_memory.md R75, R76, R79: each byte of an access is translated on its own, at addresses modulo 2^32; a read outside the I/O
windows delivers memory's bytes and changes nothing, one inside a window delivers draws; a write to windows leaves memory as it
is and is recorded: an aligned one as one event, an unaligned one as an event for each byte, in some order (the spec's own
choice, decision D30; entries 3, 37). -/
def Obligations.AccessBytes : Prop :=
  (∀ (va : VAddr) (n : Nat) (k : Access) (s : State) (pas : List Nat), translateRange va n k s = .ok pas →
    pas.length = n ∧
      ∀ j < n, ∃ pa, translate (va + BitVec.ofNat 32 j) k s = .ok pa ∧ pas[j]? = some pa.toNat) ∧
  (∀ (va : VAddr) (n : Nat) (s : State) (pas : List Nat), translateRange va n .load s = .ok pas →
    (∀ a ∈ pas, s.isDevice a = false) → memRead va n s = .ok (pas.map s.byteAt, s)) ∧
  (∀ (va : VAddr) (s : State) (pa : LAddr), translate va .load s = .ok pa → s.isDevice pa.toNat = true →
    memRead va 1 s = .ok ([(Config.draw s.draws).extractLsb' 0 8], { s with draws := s.draws + 1 })) ∧
  (∀ (va : VAddr) (bytes : List Byte) (s t : State) (pas : List Nat), translateRange va bytes.length .store s = .ok pas →
    memWrite va bytes s = .ok t → (∀ a ∈ pas, s.isDevice a = true) →
    (∀ x, t.byteAt x = s.byteAt x) ∧
    (bytes ≠ [] → va.toNat % bytes.length = 0 → t.ioWrites = ⟨pas.zip bytes⟩ :: s.ioWrites) ∧
    (va.toNat % bytes.length ≠ 0 →
      ∃ events, events.Perm ((pas.zip bytes).map fun c => IoWrite.mk [c]) ∧ t.ioWrites = events ++ s.ioWrites))

/-- 20_memory.md R73, R75, R76, R77, R100: what a store of up to four bytes wrote outside the I/O windows and the ROM (entry 3), a
load of as many bytes from the same address reads back, where the load's translation gives the addresses the store's did; the
order of the bytes of an unaligned store does not show. -/
def Obligations.StoreThenLoad : Prop :=
  ∀ (va : VAddr) (bytes : List Byte) (s t : State) (pas : List Nat), bytes.length ≤ 4 → memWrite va bytes s = .ok t →
    translateRange va bytes.length .store s = .ok pas → translateRange va bytes.length .load s = .ok pas →
    (∀ a ∈ pas, s.isWritable a = true) → memRead va bytes.length t = .ok (bytes, t)

/-- 20_memory.md R85: in machine mode an address translates to itself, for every kind of access and with no check. -/
def Obligations.MachineTranslation : Prop :=
  ∀ (va : VAddr) (k : Access) (s : State), s.mode = .machine → ∃ pa, translate va k s = .ok pa ∧ pa.toNat = va.toNat

/-- 20_memory.md R86 to R91, R95 (entry 23): user-mode translation, for data and for fetches: segment selection, the right the
access needs, the linear address, the unmapped top region, the map of the current address space. -/
def Obligations.UserTranslation : Prop :=
  ∀ (va : VAddr) (s : State), s.mode = .user →
    let paged (la : BitVec 44) (r : Except Fault LAddr) : Prop :=
      (la.toNat / 2 ^ 24 = 0xFF → r = .ok la) ∧
      (la.toNat / 2 ^ 24 ≠ 0xFF → 2 ^ (16 + mapIndexBits) ≤ la.toNat → r = .error .pageOutOfMap) ∧
      (la.toNat < 2 ^ (16 + mapIndexBits) → ∃ pa, r = .ok pa ∧
        pa.toNat = (s.mapAt s.asid (BitVec.ofNat mapIndexBits (la.toNat / 65536))).toNat * 65536 + la.toNat % 65536)
    let linear (n : Fin 16) : BitVec 44 := BitVec.ofNat 44 (va.toNat + (s.seg[n].toNat / 16) * 65536)
    (∀ k : Access, k ≠ .fetch →
      (∀ n : Fin 16, va.toNat / 2 ^ 28 = n.val →
        (n.val ∈ [8, 9, 12, 13, 14, 15] → translate va k s = .error .segSelectUnspecified) ∧
        (n.val ∉ [8, 9, 12, 13, 14, 15] →
          (s.seg[n].getLsbD (if k = .load then 2 else 1) = false → translate va k s = .error .segPermission) ∧
          (s.seg[n].getLsbD (if k = .load then 2 else 1) = true → paged (linear n) (translate va k s))))) ∧
    (va.toNat / 2 ^ 24 = 0xFF → ∃ pa, translate va .fetch s = .ok pa ∧ pa.toNat = va.toNat) ∧
    (va.toNat / 2 ^ 24 ≠ 0xFF → ∀ n : Fin 16, n.val = 12 + va.toNat / 2 ^ 30 →
      (s.seg[n].getLsbD 0 = false → translate va .fetch s = .error .segPermission) ∧
      (s.seg[n].getLsbD 0 = true → paged (linear n) (translate va .fetch s)))

/-- 20_memory.md R90: the low 16 bits of an address pass through segmentation and paging unchanged, in every mode and for every
kind of access; so the bytes of one access lie at distinct physical addresses. -/
def Obligations.LowSixteenBitsPass : Prop :=
  (∀ (va : VAddr) (k : Access) (s : State) (pa : LAddr), translate va k s = .ok pa →
    pa.toNat % 65536 = va.toNat % 65536) ∧
  (∀ (va : VAddr) (n : Nat) (k : Access) (s : State) (pas : List Nat), n ≤ 4 → translateRange va n k s = .ok pas →
    pas.Nodup)

/-! ## Floating point -/

/-- 43_floating_point.md R252 to R258 (entry 14): result and flags of FADD, FSUB, FMUL, FDIV are functions of the rounding mode
and the operand bits alone; a NaN operand gives a NaN; `of` and `uf` are set exactly when the result is infinite or de-normal,
`dz` exactly by FDIV with a zero divisor, `nv` never. Bits 4 to 1 of the flags are nv, dz, of, uf: a layout that is PRESUMED
(10_state.md R41, decision D15, entry 19). -/
def Obligations.FloatArithmetic : Prop :=
  ∃ f : Fin 4 → RoundingMode → Tetra → Tetra → Tetra × BitVec 5,
    (∀ op m a b,
      (isNaN a = true ∨ isNaN b = true → isNaN (f op m a b).1 = true) ∧
      ((f op m a b).2.getLsbD 2 = true ↔ isInfinite (f op m a b).1 = true) ∧
      ((f op m a b).2.getLsbD 1 = true ↔ isDenormal (f op m a b).1 = true) ∧
      ((f op m a b).2.getLsbD 3 = true ↔ op = 3 ∧ b.extractLsb' 0 31 = 0) ∧
      (f op m a b).2.getLsbD 4 = false) ∧
    ∀ (frd frs1 frs2 : Reg) (rm : BitVec 3) (s : State) (m : RoundingMode), roundingMode rm s = .ok m →
      YieldsF (.fadd frd frs1 frs2 rm) s frd (f 0 m (s.fsingle frs1) (s.fsingle frs2)).1
        (f 0 m (s.fsingle frs1) (s.fsingle frs2)).2 ∧
      YieldsF (.fsub frd frs1 frs2 rm) s frd (f 1 m (s.fsingle frs1) (s.fsingle frs2)).1
        (f 1 m (s.fsingle frs1) (s.fsingle frs2)).2 ∧
      YieldsF (.fmul frd frs1 frs2 rm) s frd (f 2 m (s.fsingle frs1) (s.fsingle frs2)).1
        (f 2 m (s.fsingle frs1) (s.fsingle frs2)).2 ∧
      YieldsF (.fdiv frd frs1 frs2 rm) s frd (f 3 m (s.fsingle frs1) (s.fsingle frs2)).1
        (f 3 m (s.fsingle frs1) (s.fsingle frs2)).2

/-- 43_floating_point.md R251 (entry 19): `rm` = 111 takes the dynamic mode; codes 0 to 4 name a mode; a code above 4 stops each
instruction that has an `rm` field. -/
def Obligations.RoundingModes : Prop :=
  ∀ (rm : BitVec 3) (s : State),
    let code := if rm = 7 then s.frm else rm
    (code = 0 → roundingMode rm s = .ok .nearestEven) ∧ (code = 1 → roundingMode rm s = .ok .towardZero) ∧
    (code = 2 → roundingMode rm s = .ok .down) ∧ (code = 3 → roundingMode rm s = .ok .up) ∧
    (code = 4 → roundingMode rm s = .ok .nearestAway) ∧
    (4 < code.toNat → ∀ (d x y : Reg),
      exec (.fadd d x y rm) s = .fault .fpRoundingModeInvalid ∧ exec (.fsub d x y rm) s = .fault .fpRoundingModeInvalid ∧
      exec (.fmul d x y rm) s = .fault .fpRoundingModeInvalid ∧ exec (.fdiv d x y rm) s = .fault .fpRoundingModeInvalid ∧
      exec (.fsqrt d x rm) s = .fault .fpRoundingModeInvalid ∧
      exec (.fcvt_w_s d x rm) s = .fault .fpRoundingModeInvalid ∧
      exec (.fcvt_wu_s d x rm) s = .fault .fpRoundingModeInvalid ∧
      exec (.fcvt_s_w d x rm) s = .fault .fpRoundingModeInvalid ∧
      exec (.fcvt_s_wu d x rm) s = .fault .fpRoundingModeInvalid)

/-- 43_floating_point.md R259, R260 (entry 15): FMIN and FMAX give the smaller and the larger operand where one is; result and
flags are functions of the operands. -/
def Obligations.FloatMinMax : Prop :=
  ∃ lo hi : Tetra → Tetra → Tetra × BitVec 5,
    (∀ a b, isNaN a = false → isNaN b = false → fpValue a < fpValue b →
      (lo a b).1 = a ∧ (lo b a).1 = a ∧ (hi a b).1 = b ∧ (hi b a).1 = b) ∧
    ∀ (frd frs1 frs2 : Reg) (s : State),
      YieldsF (.fmin frd frs1 frs2) s frd (lo (s.fsingle frs1) (s.fsingle frs2)).1
        (lo (s.fsingle frs1) (s.fsingle frs2)).2 ∧
      YieldsF (.fmax frd frs1 frs2) s frd (hi (s.fsingle frs1) (s.fsingle frs2)).1
        (hi (s.fsingle frs1) (s.fsingle frs2)).2

/-- 43_floating_point.md R261 (entry 16): FSQRT sets `dz` for a zero operand of either sign and `nv` for a negative one; result
and flags are functions of the rounding mode and the operand; where a pattern is exactly the square root of a positive operand,
that is the result (decision D16: the mnemonic's meaning). Bits 4 and 3 of the flags are nv and dz: a layout that is PRESUMED
(10_state.md R41, decision D15, entry 19). -/
def Obligations.FloatSquareRoot : Prop :=
  ∃ f : RoundingMode → Tetra → Tetra × BitVec 5,
    (∀ m a, (a.extractLsb' 0 31 = 0 → (f m a).2.getLsbD 3 = true) ∧
      (isNaN a = false → fpValue a < fpValue 0 → (f m a).2.getLsbD 4 = true) ∧
      ∀ x y : Nat, x ≠ 0 → fpValue a = (((x : Int) : WithTop Int) : FpValue) → y * y = x * 2 ^ 149 →
        ∀ r : Tetra, fpValue r = (((y : Int) : WithTop Int) : FpValue) → (f m a).1 = r) ∧
    ∀ (frd frs1 : Reg) (rm : BitVec 3) (s : State) (m : RoundingMode), roundingMode rm s = .ok m →
      YieldsF (.fsqrt frd frs1 rm) s frd (f m (s.fsingle frs1)).1 (f m (s.fsingle frs1)).2

/-- 43_floating_point.md R262, R263, R264: FSGNJ, FSGNJN, FSGNJX with the spellings FMOV, FNEG and FABS; exact bit operations
without flags. -/
def Obligations.SignInjection : Prop :=
  ∀ (frd frs1 frs2 : Reg) (s : State),
    let a := s.fsingle frs1
    let b := s.fsingle frs2
    RunsF (packF 16 frs2 frs1 0 frd) (.fsgnj frd frs1 frs2) s frd (b.extractLsb' 31 1 ++ a.extractLsb' 0 31) ∧
    RunsF (packF 16 frs2 frs1 1 frd) (.fsgnjn frd frs1 frs2) s frd (~~~(b.extractLsb' 31 1) ++ a.extractLsb' 0 31) ∧
    RunsF (packF 16 frs2 frs1 2 frd) (.fsgnjx frd frs1 frs2) s frd
      ((a.extractLsb' 31 1 ^^^ b.extractLsb' 31 1) ++ a.extractLsb' 0 31) ∧
    YieldsF (.fmov frd frs1) s frd a 0 ∧
    YieldsF (.fneg frd frs1) s frd (~~~(a.extractLsb' 31 1) ++ a.extractLsb' 0 31) 0 ∧
    YieldsF (.fabs frd frs1) s frd ((0 : BitVec 1) ++ a.extractLsb' 0 31) 0

/-- 43_floating_point.md R265, R266, R267: FEQ, FLT, FLE compare the values of the patterns, both zeros equal; a NaN operand makes
each test false; no flag. The value of a pattern and the NaN test rest on the binary32 layout, which R250 (d) takes from general
knowledge, and FEQ's zero where the condition is false is derived in R265. -/
def Obligations.FloatCompares : Prop :=
  ∀ (rd frs1 frs2 : Reg) (s : State), Writable rd s →
    let a := s.fsingle frs1
    let b := s.fsingle frs2
    let ordered := isNaN a = false ∧ isNaN b = false
    RunsX (packF 20 frs2 frs1 2 rd) (.feq rd frs1 frs2) s rd (if ordered ∧ fpValue a = fpValue b then 1 else 0) ∧
    RunsX (packF 20 frs2 frs1 1 rd) (.flt rd frs1 frs2) s rd (if ordered ∧ fpValue a < fpValue b then 1 else 0) ∧
    RunsX (packF 20 frs2 frs1 0 rd) (.fle rd frs1 frs2) s rd (if ordered ∧ fpValue a ≤ fpValue b then 1 else 0)

/-- 43_floating_point.md R268 to R271, R273 (entry 17): the four conversions and FCLASS: value and flags are functions of the
rounding mode and the operand; FCLASS sets no flag. Held to their mnemonics (decision D16): an operand that is a 32-bit integer
converts to that integer in bits 31..0, and an integer that is some pattern's value to a pattern of that value. -/
def Obligations.FloatConversions : Prop :=
  ∃ (w wu : RoundingMode → Tetra → Word × BitVec 5) (sw swu : RoundingMode → Word → Tetra × BitVec 5) (cls : Tetra → Word),
    (∀ (m : RoundingMode) (p : Tetra) (z : Int), fpValue p = ((z * 2 ^ 149 : Int) : WithTop Int) →
      (-2 ^ 31 ≤ z → z < 2 ^ 31 → (w m p).1.extractLsb' 0 32 = BitVec.ofInt 32 z ∧
        fpValue (sw m (BitVec.ofInt 64 z)).1 = ((z * 2 ^ 149 : Int) : WithTop Int)) ∧
      (0 ≤ z → z < 2 ^ 32 → (wu m p).1.extractLsb' 0 32 = BitVec.ofInt 32 z ∧
        fpValue (swu m (BitVec.ofInt 64 z)).1 = ((z * 2 ^ 149 : Int) : WithTop Int))) ∧
    (∀ (rd frs1 : Reg) (rm : BitVec 3) (s : State) (m : RoundingMode), roundingMode rm s = .ok m → Writable rd s →
      let p := s.fsingle frs1
      (∃ t, exec (.fcvt_w_s rd frs1 rm) s = .next t ∧ t.pc = s.pc + 4 ∧ WroteX rd (w m p).1 s t ∧ FloatSame s t ∧
        t.fflags = s.fflags ||| (w m p).2 ∧ ControlSame s t ∧ MemorySame s t) ∧
      (∃ t, exec (.fcvt_wu_s rd frs1 rm) s = .next t ∧ t.pc = s.pc + 4 ∧ WroteX rd (wu m p).1 s t ∧ FloatSame s t ∧
        t.fflags = s.fflags ||| (wu m p).2 ∧ ControlSame s t ∧ MemorySame s t)) ∧
    (∀ (frd rs1 : Reg) (rm : BitVec 3) (s : State) (m : RoundingMode) (a : Word), roundingMode rm s = .ok m →
      readX .rs1 rs1 s = .ok a →
      YieldsF (.fcvt_s_w frd rs1 rm) s frd (sw m a).1 (sw m a).2 ∧
      YieldsF (.fcvt_s_wu frd rs1 rm) s frd (swu m a).1 (swu m a).2) ∧
    ∀ (rd frs1 : Reg) (s : State), Writable rd s → YieldsX (.fclass rd frs1) s rd (cls (s.fsingle frs1))

/-- 43_floating_point.md R272, R274: FMV.X.S moves the 32 bits into bits 31..0 (bits 63..32 are unspecified: some value), FMV.S.X
moves Rs1's low 32 bits. -/
def Obligations.FloatMoves : Prop :=
  (∀ (rd frs1 : Reg) (s : State), Writable rd s →
    decode (packF 28 0 frs1 0 rd) = .ok (.fmv_x_s rd frs1) ∧
    ∃ upper : BitVec 32, YieldsX (.fmv_x_s rd frs1) s rd (upper ++ s.fsingle frs1)) ∧
  (∀ (frd rs1 : Reg) (s : State) (a : Word), readX .rs1 rs1 s = .ok a →
    RunsF (packF 30 0 rs1 0 frd) (.fmv_s_x frd rs1) s frd (a.extractLsb' 0 32))

/-! ## Traps, waiting, custom instructions -/

/-- 44_machine_mode.md R301, R303, 60_exceptions.md R380 to R385 (entry 11): ECALL and EBREAK take their trap in either mode with
`mepc` = `pc`: from user mode to the resume address, from machine mode to the open target (entry 10); where register set 3
would be pushed they stop. -/
def Obligations.EnvironmentCalls : Prop :=
  ∀ s : State,
    ((currentSet s.regset).toNat < 2 →
      (∃ t, exec .ecall s = .next t ∧ TrapTaken .ecall s.pc s t) ∧ (∃ t, exec .ebreak s = .next t ∧ TrapTaken .ebreak s.pc s t)) ∧
    (¬(currentSet s.regset).toNat < 2 →
      exec .ecall s = .fault .regsetInvalid ∧ exec .ebreak s = .fault .regsetInvalid) ∧
    (s.mode = .user → ∀ k, trapTarget k s = s.mresume) ∧
    (s.mode = .machine → ∀ k, trapTarget k s = Config.trapTargetFromMachine k)

/-- 60_exceptions.md R371, R385: no two kinds of trap share a cause code, whatever the modes, so that a handler can tell them
apart. -/
def Obligations.CauseCodesDistinct : Prop := ∀ j k m n, causeCode j m = causeCode k n → j = k

/-- 44_machine_mode.md R302, 60_exceptions.md R387 with `ERET_MODE` = restore_prev (entry 10): in machine mode ERET resumes at
`mepc` in the saved mode with the saved interrupt enable, pops the register-set stack, records the resume address, and changes
nothing else but the saved fields (entry 12). -/
def Obligations.ReturnFromException : Prop :=
  ∀ s : State, s.mode = .machine →
    ∃ t, exec .eret s = .next t ∧ t.mresume = s.pc + 4 ∧ t.pc = s.mepc ∧ t.ie = s.iePrev ∧ t.mode = s.modePrev ∧
      t.regset.extractLsb' 0 4 = s.regset.extractLsb' 0 4 ∧ t.regset.extractLsb' 4 10 = s.regset.extractLsb' 6 10 ∧
      t.mepc = s.mepc ∧ t.mcause = s.mcause ∧ t.waiting = s.waiting ∧ IntegerSame s t ∧ FloatSame s t ∧
      t.fflags = s.fflags ∧ t.frm = s.frm ∧ OutsideSame s t ∧ GuardedSame s t ∧ MemorySame s t

/-- A trap and its ERET cancel: mode, interrupt enable, `pc` (at `epc`), the register-set selection but for its oldest entry,
every register and every byte of memory are as before the trap, whichever trap and from whichever mode (60_exceptions.md
R380, R387, 10_state.md R26; entries 10, 11). -/
def Obligations.TrapThenReturn : Prop :=
  ∀ (k : TrapKind) (epc : Word) (s t : State), takeTrap k epc s = .next t →
    ∃ u, exec .eret t = .next u ∧ u.mode = s.mode ∧ u.ie = s.ie ∧ u.pc = epc ∧
      u.regset.extractLsb' 0 14 = s.regset.extractLsb' 0 14 ∧ IntegerSame s u ∧ FloatSame s u ∧ u.fflags = s.fflags ∧
      u.frm = s.frm ∧ OutsideSame s u ∧ GuardedSame s u ∧ MemorySame s u

/-- 44_machine_mode.md R304, 60_exceptions.md R390 (entry 30): WFI in machine mode. Without a pending and enabled source it enters
the wait and changes nothing else; with one, the wait ends at once: the next instruction with interrupts disabled, the
interrupt's trap with `epc` = `pc` + 4 with interrupts enabled, which rests on the supplied target (DESIGN CHOICE, entry 10: the
spec's default is a fault, R381); where the current register set is 2, or 3 (DEDUCED, entry 11), the push stops it (R380). -/
def Obligations.WaitForInterrupt : Prop :=
  ∀ s : State, s.mode = .machine →
    (s.pending &&& s.enabled = 0 → exec .wfi s = .next { s with waiting := true }) ∧
    (s.pending &&& s.enabled ≠ 0 → s.ie = false → exec .wfi s = .next { s with waiting := false, pc := s.pc + 4 }) ∧
    (s.pending &&& s.enabled ≠ 0 → s.ie = true → (currentSet s.regset).toNat < 2 →
      ∃ (k : Fin 64) (t : State), s.pending.getLsbD k.val = true ∧ s.enabled.getLsbD k.val = true ∧
        exec .wfi s = .next t ∧ TrapTaken (.interrupt k) (s.pc + 4) s t) ∧
    (s.pending &&& s.enabled ≠ 0 → s.ie = true → ¬(currentSet s.regset).toNat < 2 → exec .wfi s = .fault .regsetInvalid)

/-- 45_custom.md R330, 60_exceptions.md R390: PFI in machine mode takes a pending and enabled interrupt whatever the interrupt
enable is, with `epc` = `pc` + 4, and stops where register set 3 would be pushed (10_state.md R28); otherwise the next
instruction follows and nothing else changes; in user mode it stops (R319, R332 (c), the cautious choice, entry 33). -/
def Obligations.PollForInterrupt : Prop :=
  ∀ s : State,
    (s.mode = .machine → s.pending &&& s.enabled = 0 → RunsPc 0x10300073 .pfi s (s.pc + 4)) ∧
    (s.mode = .machine → s.pending &&& s.enabled ≠ 0 → (currentSet s.regset).toNat < 2 →
      ∃ (k : Fin 64) (t : State), s.pending.getLsbD k.val = true ∧ s.enabled.getLsbD k.val = true ∧
        exec .pfi s = .next t ∧ TrapTaken (.interrupt k) (s.pc + 4) s t) ∧
    (s.mode = .machine → s.pending &&& s.enabled ≠ 0 → ¬(currentSet s.regset).toNat < 2 →
      exec .pfi s = .fault .regsetInvalid) ∧
    (s.mode = .user → exec .pfi s = .fault .privilegedInUser)

/-- 45_custom.md R333 (entry 25): MVSEG in machine mode swaps the segment register Rs2 names with Rs1's low 32 bits in one step;
a number above 15 stops it. -/
def Obligations.SegmentSwap : Prop :=
  ∀ (rd rs1 rs2 : Reg) (s : State) (n : Word), s.mode = .machine → readX .rs2 rs2 s = .ok n →
    (15 < n.toNat → exec (.mvseg rd rs1 rs2) s = .fault .segIndexUnspecified) ∧
    (∀ (j : Fin 16) (a : Word), n.toNat = j.val → readX .rs1 rs1 s = .ok a → Writable rd s →
      ∃ t, exec (.mvseg rd rs1 rs2) s = .next t ∧ t.pc = s.pc + 4 ∧ WroteX rd (s.seg[j].setWidth 64) s t ∧
        t.seg = s.seg.set j.val (a.extractLsb' 0 32) ∧ FloatSame s t ∧ t.fflags = s.fflags ∧ MemorySame s t ∧
        ControlSame { s with seg := t.seg } t)

/-- 45_custom.md R334 (entries 23, 25): MVMAP in machine mode swaps entry `s[8:0]` of map `s[19:16]` with Rs1's low
`MAP_ENTRY_BITS` bits in one step; a selector with another bit set stops it. The canonical form of the page map is the premise (invariant statement). -/
def Obligations.MapSwap : Prop :=
  ∀ (rd rs1 rs2 : Reg) (s : State) (sel : Word), s.mode = .machine → readX .rs2 rs2 s = .ok sel →
    (sel.toNat / 2 ^ 20 ≠ 0 ∨ sel.toNat / 2 ^ 9 % 2 ^ 7 ≠ 0 → exec (.mvmap rd rs1 rs2) s = .fault .mapSelectorUnspecified) ∧
    (∀ a : Word, sel.toNat / 2 ^ 20 = 0 → sel.toNat / 2 ^ 9 % 2 ^ 7 = 0 → readX .rs1 rs1 s = .ok a → Writable rd s →
      PageMap.wf s.pageMap = true →
      let task := BitVec.ofNat 6 (sel.toNat / 2 ^ 16)
      let entry := BitVec.ofNat mapIndexBits (sel.toNat % 2 ^ 9)
      ∃ t, exec (.mvmap rd rs1 rs2) s = .next t ∧ t.pc = s.pc + 4 ∧ WroteX rd ((s.mapAt task entry).setWidth 64) s t ∧
        t.mapAt task entry = a.extractLsb' 0 mapEntryBits ∧
        (∀ x y, ¬(x = task ∧ y = entry) → t.mapAt x y = s.mapAt x y) ∧ FloatSame s t ∧ t.fflags = s.fflags ∧
        MemorySame s t ∧ ControlSame { s with pageMap := t.pageMap } t)

/-- 45_custom.md R349, R332: in machine mode each of the sixteen undescribed rows stops by name (entry 27). -/
def Obligations.UndescribedStop : Prop :=
  ∀ (i : Instr) (m : String) (s : State), undescribedName i = some m → s.mode = .machine → exec i s = .refused (.undescribedInstruction m)

/-- 44_machine_mode.md R319, 45_custom.md R332: in user mode ERET, WFI, PFI and every opcode-13 instruction stop (entry 33). -/
def Obligations.MachineOnlyInUser : Prop :=
  ∀ (i : Instr) (s : State), isMachineOnly i = true → s.mode = .user → exec i s = .fault .privilegedInUser

/-! ## Counters and CSRs -/

/-- 44_machine_mode.md R305 to R312 (entry 6): the six counter reads, in either mode; the H rows read bits 63..32. -/
def Obligations.CounterReads : Prop :=
  ∀ (rd : Reg) (s : State), Writable rd s →
    RunsX (packI 0xC00 0 1 rd 115) (.rdcycle rd) s rd s.cycle ∧
    RunsX (packI 0xC80 0 1 rd 115) (.rdcycleh rd) s rd (s.cycle >>> 32) ∧
    RunsX (packI 0xC01 0 1 rd 115) (.rdtime rd) s rd s.time ∧
    RunsX (packI 0xC81 0 1 rd 115) (.rdtimeh rd) s rd (s.time >>> 32) ∧
    RunsX (packI 0xC02 0 1 rd 115) (.rdinstret rd) s rd s.instret ∧
    RunsX (packI 0xC82 0 1 rd 115) (.rdinstreth rd) s rd (s.instret >>> 32)

/-- 44_machine_mode.md R311, 10_state.md R40 to R50 (entries 8, 9, 13, 19): the value of each CSR by its number, in machine
mode. In the layout of `mie` and `mip` the timer has a bit and no two sources share one (60_exceptions.md R390, R391). -/
def Obligations.CsrValues : Prop :=
  mieBit timerSource < 64 ∧ (∀ j k : Fin 64, mieBit j = mieBit k → mieBit k < 64 → j = k) ∧
  ∀ s : State, s.mode = .machine →
    let value (n : BitVec 12) (v : Word) : Prop := ∃ c, csrAccess n s = .ok c ∧ csrRead c s = v
    value 0x001 (s.fflags.setWidth 64) ∧ value 0x002 (s.frm.setWidth 64) ∧ value 0x003 ((s.frm ++ s.fflags).setWidth 64) ∧
    value 0xC00 s.cycle ∧ value 0xC01 s.time ∧ value 0xC02 s.instret ∧
    value 0xC80 (s.cycle >>> 32) ∧ value 0xC81 (s.time >>> 32) ∧ value 0xC82 (s.instret >>> 32) ∧
    value 0xF00 Config.mcpuid ∧ value 0xF01 Config.mimpid ∧ value 0xF10 Config.mhartid ∧
    value 0x300 (Config.mstatusPack ⟨s.mode, s.ie, s.modePrev, s.iePrev, s.mstatusOther⟩) ∧
    value 0x301 0xFFFC0000 ∧ value 0x321 s.mtimecmp ∧ value 0x701 s.time ∧ value 0x340 s.mscratch ∧ value 0x341 s.mepc ∧
    value 0x342 s.mcause ∧ value 0x343 s.mbadaddr ∧ value 0x181 (s.asid.setWidth 64) ∧ value 0x790 (s.regset.setWidth 64) ∧
    (∃ v w, value 0x304 v ∧ value 0x344 w ∧ ∀ b < 64,
      (v.getLsbD b = true ↔ ∃ k : Fin 64, s.enabled.getLsbD k.val = true ∧ mieBit k = b) ∧
      (w.getLsbD b = true ↔ ∃ k : Fin 64, s.pending.getLsbD k.val = true ∧ mieBit k = b))

/-- 44_machine_mode.md R311, 10_state.md R41 to R50, 60_exceptions.md R391, R395 (entries 8, 9, 24): what a write of each writable
CSR changes, and that it changes nothing else. PRESUMED: the layout of the floating-point CSRs (entry 19) and that a write of
`mtimecmp` withdraws the timer's pending bit (entry 7). DEDUCED: the mode a write of `mstatus` sets is machine mode (entry 9). -/
def Obligations.CsrWrites : Prop :=
  ∀ (s : State) (v : Word),
    csrWrite .fflags v s = .ok { s with fflags := v.extractLsb' 0 5 } ∧
    csrWrite .frm v s = .ok { s with frm := v.extractLsb' 0 3 } ∧
    csrWrite .fcsr v s = .ok { s with frm := v.extractLsb' 5 3, fflags := v.extractLsb' 0 5 } ∧
    csrWrite .mscratch v s = .ok { s with mscratch := v } ∧
    csrWrite .mepc v s = .ok { s with mepc := v } ∧
    csrWrite .mcause v s = .ok { s with mcause := v } ∧
    csrWrite .mbadaddr v s = .ok { s with mbadaddr := v } ∧
    csrWrite .asid v s = .ok { s with asid := v.extractLsb' 0 6 } ∧
    csrWrite .regset v s = .ok { s with regset := v.extractLsb' 0 16 } ∧
    csrWrite .mstatus v s = .ok { s with
      mode := .machine, ie := (Config.mstatusUnpack v).ie, modePrev := (Config.mstatusUnpack v).modePrev,
      iePrev := (Config.mstatusUnpack v).iePrev, mstatusOther := (Config.mstatusUnpack v).other } ∧
    (∃ e, csrWrite .mie v s = .ok { s with enabled := e } ∧
      ∀ k : Fin 64, e.getLsbD k.val = (decide (mieBit k < 64) && v.getLsbD (mieBit k))) ∧
    (∃ p, csrWrite .mtimecmp v s = .ok { s with mtimecmp := v, pending := p } ∧ p.getLsbD 0 = false ∧
      ∀ k, k ≠ 0 → p.getLsbD k = s.pending.getLsbD k)

/-- 44_machine_mode.md R311, R313 to R318 (entry 24): the six CSR instructions. The old value goes to Rd, the new value to the CSR
in the same step; CSRRS, CSRRC and their immediate forms with a zero field write nothing. -/
def Obligations.CsrInstructions : Prop :=
  ∀ (rd rs1 : Reg) (z : BitVec 5) (n : BitVec 12) (s : State) (c : Csr) (a : Word), csrAccess n s = .ok c →
    readX .rs1 rs1 s = .ok a → Writable rd s →
    (csrWritable c = true →
      YieldsCsr (.csrrw rd n rs1) s rd c a ∧
      YieldsCsr (.csrrwi rd n z) s rd c (z.setWidth 64) ∧
      (rs1 ≠ 0 → YieldsCsr (.csrrs rd n rs1) s rd c (csrRead c s ||| a) ∧
        YieldsCsr (.csrrc rd n rs1) s rd c (csrRead c s &&& ~~~a)) ∧
      (z ≠ 0 → YieldsCsr (.csrrsi rd n z) s rd c (csrRead c s ||| z.setWidth 64) ∧
        YieldsCsr (.csrrci rd n z) s rd c (csrRead c s &&& ~~~(z.setWidth 64)))) ∧
    YieldsX (.csrrs rd n 0) s rd (csrRead c s) ∧ YieldsX (.csrrc rd n 0) s rd (csrRead c s) ∧
    YieldsX (.csrrsi rd n 0) s rd (csrRead c s) ∧ YieldsX (.csrrci rd n 0) s rd (csrRead c s)

/-- 10_state.md R40, R42, R43, R45, R52, 44_machine_mode.md R311 (entries 24, 33): an unlisted number stops every CSR instruction;
so does a listed one outside the user list in user mode; and a write of a read-only CSR, or of `mtvec`, `mip` or `mtime`. -/
def Obligations.CsrStops : Prop :=
  ∀ (rd rs1 : Reg) (z : BitVec 5) (n : BitVec 12) (s : State),
    let forms : List Instr :=
      [.csrrw rd n rs1, .csrrs rd n rs1, .csrrc rd n rs1, .csrrwi rd n z, .csrrsi rd n z, .csrrci rd n z]
    let user : List (BitVec 12) := [0x001, 0x002, 0x003, 0xC00, 0xC01, 0xC02, 0xC80, 0xC81, 0xC82]
    let machine : List (BitVec 12) :=
      [0xF00, 0xF01, 0xF10, 0x300, 0x301, 0x304, 0x321, 0x701, 0x340, 0x341, 0x342, 0x343, 0x344, 0x181, 0x790]
    (n ∉ user → n ∉ machine → ∀ i ∈ forms, exec i s = .fault .csrUnknown) ∧
    (n ∈ machine → s.mode = .user → ∀ i ∈ forms, exec i s = .fault .csrPrivilege) ∧
    (∀ a, s.mode = .machine → readX .rs1 rs1 s = .ok a → rs1 ≠ 0 → z ≠ 0 → Writable rd s →
      (n ∈ ([0xC00, 0xC01, 0xC02, 0xC80, 0xC81, 0xC82, 0xF00, 0xF01, 0xF10] : List (BitVec 12)) →
        ∀ i ∈ Instr.csrrwi rd n 0 :: forms, exec i s = .fault .csrReadOnlyWrite) ∧
      (n ∈ ([0x301, 0x344, 0x701] : List (BitVec 12)) →
        ∀ i ∈ Instr.csrrwi rd n 0 :: .csrrw rd n 0 :: forms, exec i s = .fault .csrWriteUnspecified))

/-! ## The whole machine -/

/-- 10_state.md R34: every instruction that is no branch, jump, trap-raising instruction, ERET, WFI or PFI ends with
`pc` + 4. -/
def Obligations.SequentialFlow : Prop := ∀ (i : Instr) (s t : State), movesPc i = false → exec i s = .next t → t.pc = s.pc + 4

/-- 10_state.md R38, 43_floating_point.md R252: a floating-point flag, once set, stays set through every instruction but a CSR
instruction. -/
def Obligations.FlagsAccrue : Prop :=
  ∀ (i : Instr) (s t : State), isCsrInstr i = false → exec i s = .next t → s.fflags &&& t.fflags = s.fflags

/-- 10_state.md R58, 42_memory_instructions.md: no instruction but the four stores changes a byte of memory, the set of stored
addresses or the recorded I/O writes; and no step changes a byte of the ROM or of an I/O window (20_memory.md R79, R80, the model's
choice, entry 3). -/
def Obligations.OnlyStoresWriteMemory : Prop :=
  (∀ (i : Instr) (s t : State), isStore i = false → exec i s = .next t → MemorySame s t) ∧
  ∀ (s t : State) (a : Nat), step s = .next t → isRom a = true ∨ s.isDevice a = true → t.byteAt a = s.byteAt a

/-- 10_state.md R52, 44_machine_mode.md R319, 45_custom.md R332: no instruction in user mode changes the registers only machine
mode may write: segment registers, page map, address space, timer compare, enabled and pending sources, scratch, bad address,
resume address. -/
def Obligations.UserKeepsGuarded : Prop :=
  ∀ (i : Instr) (s t : State), s.mode = .user → exec i s = .next t → GuardedSame s t ∧ t.mresume = s.mresume

/-- 60_exceptions.md R381, R395: a step leaves user mode only by taking a trap, at the address after the ERET that entered user
mode, and enters user mode only by running an ERET (a write of `mstatus` does not: DEDUCED, entry 9). -/
def Obligations.ModeChanges : Prop :=
  (∀ s t : State, s.mode = .user → step s = .next t →
    t.mode = .user ∨ ∃ k epc, TrapTaken k epc s.boundary t ∧ t.pc = s.mresume) ∧
  ∀ s t : State, s.mode = .machine → step s = .next t →
    t.mode = .machine ∨ ∃ q, fetchInstr s.boundary = .ok (.eret, q) ∧ t = returnFromTrap q

end
end

