-- ==== Sys2Proof/Laws/Bits.lean ====
section
/-! SUPPORT. The bit-field and byte-order helpers as concatenations and as bits. -/

namespace Sys2Proof.Machine

/-- `{hi, lo}` is concatenation (00_scope.md R7). -/
theorem joinBits_append {n m : Nat} (hi : BitVec n) (lo : BitVec m) : joinBits (n + m) hi lo = hi ++ lo := by
  unfold joinBits
  ext i h
  simp only [BitVec.getElem_or, BitVec.getElem_shiftLeft, BitVec.getElem_setWidth, BitVec.getElem_append]
  by_cases hm : i < m
  · simp [hm]
  · have hn : i - m < n := by omega
    simp [hm, BitVec.getLsbD_of_ge lo i (by omega), BitVec.getLsbD_eq_getElem hn]

/-- A byte above a smaller value. -/
theorem leValue_cons (k : Nat) (b : Byte) (rest : List Byte) :
    leValue k (b :: rest) = leValue k rest <<< 8 ||| b.setWidth k := rfl

/-- One byte is its own value. -/
theorem leValue_one (b : Byte) : leValue 8 [b] = b := by
  simp [leValue]

/-- Two bytes, the one at the lower address low (20_memory.md R73). -/
theorem leValue_two (b0 b1 : Byte) : leValue 16 [b0, b1] = b1 ++ b0 := by
  rw [← joinBits_append]
  unfold joinBits leValue leValue leValue
  ext i hi
  interval_cases i <;> simp

/-- Four bytes, the one at the lowest address lowest (20_memory.md R73). -/
theorem leValue_four (b0 b1 b2 b3 : Byte) : leValue 32 [b0, b1, b2, b3] = b3 ++ b2 ++ b1 ++ b0 := by
  rw [← joinBits_append, ← joinBits_append, ← joinBits_append]
  unfold joinBits leValue leValue leValue leValue leValue
  ext i hi
  interval_cases i <;> simp

/-- The four bytes of a word assemble to the word (30_encoding.md R120). -/
theorem leValue_leBytes (w : Tetra) : leValue 32 (leBytes w 4) = w := by
  unfold leBytes byteOf
  simp only [List.range, List.range.loop, List.map]
  unfold leValue leValue leValue leValue leValue
  ext i hi
  interval_cases i <;> simp

/-- Clearing the two low bits (41_control_flow.md R201). -/
theorem clearLow2_append (t : Word) : clearLow2 t = t.extractLsb' 2 62 ++ (0 : BitVec 2) := by
  rw [← joinBits_append]
  unfold clearLow2 joinBits
  ext i hi
  interval_cases i <;> simp

theorem foldl_or_bits (l : List (Fin 64)) (p : Fin 64 → Bool) (f : Fin 64 → Nat) (acc : Word) (b : Nat) (hb : b < 64) :
    (l.foldl (fun acc s => if p s then acc ||| (1 : Word) <<< f s else acc) acc).getLsbD b =
      (acc.getLsbD b || l.any fun s => p s && f s == b) := by
  induction l generalizing acc with
  | nil => simp
  | cons s rest ih =>
    simp only [List.foldl_cons, List.any_cons, ih]
    by_cases hp : p s
    · have hbit : ((1 : Word) <<< f s).getLsbD b = (f s == b) := by
        rw [BitVec.getLsbD_shiftLeft]
        by_cases he : f s = b
        · subst he; simp [hb]
        · by_cases hlt : b < f s
          · simp [hb, hlt, he]
          · have : b - f s ≠ 0 := by omega
            simp [hb, hlt, he, BitVec.getLsbD_one, this]
      simp only [hp, if_true, BitVec.getLsbD_or, Bool.true_and, hbit, Bool.or_assoc]
    · simp [hp]

/-- A set of sources has the bit of each member (60_exceptions.md R390). -/
theorem sourceSet_bit (p : Fin 64 → Bool) (k : Fin 64) : (sourceSet p).getLsbD k.val = p k := by
  unfold sourceSet
  rw [foldl_or_bits _ p (fun s => s.val) 0 k.val k.isLt]
  rw [Bool.eq_iff_iff]
  simp only [Bool.or_eq_true, List.any_eq_true, Bool.and_eq_true, beq_iff_eq, List.mem_finRange, true_and]
  constructor
  · rintro (h | ⟨s, hs, he⟩)
    · simp at h
    · rwa [← Fin.ext he]
  · intro h
    exact .inr ⟨k, h, rfl⟩

/-! ## The layout of `mie` and `mip` (10_state.md R46, 60_exceptions.md R390) -/

theorem mieLayoutValid_iff :
    mieLayoutValid = true ↔ Config.mieBit timerSource < 64 ∧
      ∀ j k : Fin 64, Config.mieBit j = Config.mieBit k → Config.mieBit k < 64 → j = k := by
  simp only [mieLayoutValid, Bool.and_eq_true, decide_eq_true_eq, List.all_eq_true, List.mem_finRange, forall_const,
    Bool.or_eq_true, beq_iff_eq, bne_iff_ne, ne_eq]
  refine and_congr_right fun _ => forall_congr' fun j => forall_congr' fun k => ?_
  by_cases hj : j = k
  · simp [hj]
  · simp only [hj, false_or, imp_false, Nat.not_lt]
    tauto

/-- The timer is a source of the machine (R391). -/
theorem mieBit_timer : mieBit timerSource < 64 := by
  unfold mieBit
  split
  · next h => exact (mieLayoutValid_iff.1 h).1
  · exact timerSource.isLt

/-- No two sources have one bit. -/
theorem mieBit_injective {j k : Fin 64} (h : mieBit j = mieBit k) (hk : mieBit k < 64) : j = k := by
  unfold mieBit at h hk
  split at h
  · next hv =>
    rw [if_pos hv] at hk
    exact (mieLayoutValid_iff.1 hv).2 j k h hk
  · exact Fin.ext h

/-- The sources are those that have a bit. -/
theorem sources_bit (k : Fin 64) : sources.getLsbD k.val = decide (mieBit k < 64) := sourceSet_bit _ k

/-- A set lies within the sources exactly if each of its members is one. -/
theorem within_sources_iff (set : Word) :
    set &&& ~~~sources = 0 ↔ ∀ k : Fin 64, set.getLsbD k.val = true → mieBit k < 64 := by
  constructor
  · intro h k hk
    have := congrArg (·.getLsbD k.val) h
    have hs : sources.getLsbD k.val = true := by simpa [hk] using this
    rw [sources_bit] at hs
    simpa using hs
  · intro h
    ext i hi
    have hs := sources_bit ⟨i, hi⟩
    have hm := h ⟨i, hi⟩
    simp only [BitVec.getLsbD_eq_getElem hi] at hs hm
    cases hb : set[i]
    · simp [hb]
    · simp [hb, hs, hm hb]

/-- A write of `mie` enables sources of the machine alone. -/
theorem mieSources_within (v : Word) : mieSources v &&& ~~~sources = 0 := by
  rw [within_sources_iff]
  intro k hk
  unfold mieSources at hk
  rw [sourceSet_bit, Bool.and_eq_true] at hk
  simpa using hk.1

theorem withoutTimer_within {set : Word} (h : set &&& ~~~sources = 0) : withoutTimer set &&& ~~~sources = 0 := by
  rw [withoutTimer, BitVec.and_assoc, BitVec.and_comm (~~~_), ← BitVec.and_assoc, h]
  exact BitVec.zero_and

/-- The `mie` view of a set shows the bit of each source that has one (10_state.md R46). -/
theorem mieView_bit (set : Word) (b : Nat) (hb : b < 64) :
    (mieView set).getLsbD b = true ↔ ∃ k : Fin 64, set.getLsbD k.val = true ∧ mieBit k = b := by
  unfold mieView
  rw [foldl_or_bits _ (fun i : Fin 64 => set.getLsbD i.val && decide (mieBit i < 64)) mieBit 0 b hb]
  simp only [Bool.or_eq_true, List.any_eq_true, Bool.and_eq_true, beq_iff_eq, List.mem_finRange, true_and, decide_eq_true_eq]
  constructor
  · rintro (h | ⟨k, ⟨hk, _⟩, he⟩)
    · simp at h
    · exact ⟨k, hk, he⟩
  · rintro ⟨k, hk, he⟩
    exact .inr ⟨k, ⟨hk, he ▸ hb⟩, he⟩

end Sys2Proof.Machine
end

