-- ==== Sys2Proof/Laws/Cells.lean ====
section
/-! SUPPORT. The sparse lists: reading after writing, and the canonical form that every operation keeps. -/

namespace Sys2Proof.Machine

variable {α : Type}

/-- Reading after a write: the value at its key, everything else as before. -/
theorem cellAt_cellPut (k j : Nat) (v : α) (m : List (Nat × α)) :
    cellAt k (cellPut j v m) = if k = j then some v else cellAt k m := by
  induction m with
  | nil => simp [cellPut, cellAt, eq_comm]
  | cons c rest ih =>
    obtain ⟨i, w⟩ := c
    simp only [cellPut]
    split
    · simp [cellAt, eq_comm]
    · split
      · next h => subst h; by_cases hk : k = j <;> simp [cellAt, hk, eq_comm]
      · next h =>
        simp only [cellAt, ih]
        by_cases hi : i = k
        · simp only [hi, if_true]
          rw [if_neg (fun e : k = j => h (e.symm.trans hi.symm))]
        · simp [hi]

theorem keysAbove_iff (k : Nat) (m : List (Nat × α)) : keysAbove k m = true ↔ ∀ c ∈ m, k < c.1 := by
  induction m with
  | nil => simp [keysAbove]
  | cons c rest ih => simp [keysAbove, ih]

theorem keysRising_iff (m : List (Nat × α)) : keysRising m = true ↔ m.Pairwise (fun a b => a.1 < b.1) := by
  induction m with
  | nil => simp [keysRising]
  | cons c rest ih => simp [keysRising, ih, keysAbove_iff]

theorem addressesRising_iff (m : List Nat) : addressesRising m = true ↔ m.Pairwise (· < ·) := by
  induction m with
  | nil => simp [addressesRising]
  | cons c rest ih => simp [addressesRising, ih]

/-- The keys of a list after a write. -/
theorem mem_cellPut {k : Nat} {v : α} {m : List (Nat × α)} {c : Nat × α} (h : c ∈ cellPut k v m) : c = (k, v) ∨ c ∈ m := by
  induction m with
  | nil => simpa [cellPut] using h
  | cons d rest ih =>
    simp only [cellPut] at h
    split at h
    · simpa using h
    · split at h
      · simp only [List.mem_cons] at h ⊢; tauto
      · simp only [List.mem_cons] at h ⊢
        rcases h with h | h
        · exact .inr (.inl h)
        · exact (ih h).imp_right .inr

theorem mem_cellDrop {k : Nat} {m : List (Nat × α)} {c : Nat × α} (h : c ∈ cellDrop k m) : c ∈ m := by
  induction m with
  | nil => simp [cellDrop] at h
  | cons d rest ih =>
    simp only [cellDrop] at h
    split at h
    · exact List.mem_cons_of_mem _ h
    · simp only [List.mem_cons] at h ⊢; exact h.imp_right ih

/-- A write keeps the keys rising. -/
theorem keysRising_cellPut {k : Nat} {v : α} {m : List (Nat × α)} (h : keysRising m = true) :
    keysRising (cellPut k v m) = true := by
  rw [keysRising_iff] at h ⊢
  induction m with
  | nil => simp [cellPut]
  | cons d rest ih =>
    rw [List.pairwise_cons] at h
    simp only [cellPut]
    split
    · next hk =>
      refine List.pairwise_cons.2 ⟨fun c hc => ?_, List.pairwise_cons.2 h⟩
      rcases List.mem_cons.1 hc with rfl | hc
      · exact hk
      · exact lt_trans hk (h.1 c hc)
    · split
      · next hk => exact List.pairwise_cons.2 ⟨fun c hc => hk ▸ h.1 c hc, h.2⟩
      · next h1 h2 =>
        refine List.pairwise_cons.2 ⟨fun c hc => ?_, ih h.2⟩
        rcases mem_cellPut hc with rfl | hc
        · exact lt_of_le_of_ne (Nat.le_of_not_lt h1) (Ne.symm h2)
        · exact h.1 c hc

/-- A removal keeps the keys rising. -/
theorem keysRising_cellDrop {k : Nat} {m : List (Nat × α)} (h : keysRising m = true) : keysRising (cellDrop k m) = true := by
  rw [keysRising_iff] at h ⊢
  induction m with
  | nil => simp [cellDrop]
  | cons d rest ih =>
    rw [List.pairwise_cons] at h
    simp only [cellDrop]
    split
    · exact h.2
    · exact List.pairwise_cons.2 ⟨fun c hc => h.1 c (mem_cellDrop hc), ih h.2⟩

/-- Reading after a removal, in a list in canonical form. -/
theorem cellAt_cellDrop (k j : Nat) {m : List (Nat × α)} (h : keysRising m = true) :
    cellAt k (cellDrop j m) = if k = j then none else cellAt k m := by
  rw [keysRising_iff] at h
  induction m with
  | nil => simp [cellDrop, cellAt]
  | cons d rest ih =>
    rw [List.pairwise_cons] at h
    simp only [cellDrop]
    split
    · next hd =>
      by_cases hk : k = j
      · subst hk
        rw [if_pos rfl]
        have habove : ∀ c ∈ rest, k < c.1 := fun c hc => hd ▸ h.1 c hc
        clear h ih
        induction rest with
        | nil => rfl
        | cons e rest ih =>
          have := habove e (by simp)
          simp only [cellAt]
          rw [if_neg (by omega)]
          exact ih fun c hc => habove c (List.mem_cons_of_mem _ hc)
      · rw [if_neg hk]
        simp only [cellAt]
        rw [if_neg (by omega)]
    · next hd =>
      simp only [cellAt, ih h.2]
      by_cases hk : k = j
      · subst hk; simp [hd]
      · simp [hk]

theorem mem_addAddress {k a : Nat} {m : List Nat} : a ∈ addAddress k m ↔ a = k ∨ a ∈ m := by
  induction m with
  | nil => simp [addAddress]
  | cons d rest ih =>
    simp only [addAddress]
    split
    · simp
    · split
      · next h => subst h; simp
      · simp only [List.mem_cons, ih]; tauto

theorem mem_dropAddress {k a : Nat} {m : List Nat} (h : a ∈ dropAddress k m) : a ∈ m := by
  induction m with
  | nil => simp [dropAddress] at h
  | cons d rest ih =>
    simp only [dropAddress] at h
    split at h
    · exact List.mem_cons_of_mem _ h
    · simp only [List.mem_cons] at h ⊢; exact h.imp_right ih

/-- In canonical form a removed address is gone. -/
theorem not_mem_dropAddress {k : Nat} {m : List Nat} (h : addressesRising m = true) : k ∉ dropAddress k m := by
  rw [addressesRising_iff] at h
  induction m with
  | nil => simp [dropAddress]
  | cons d rest ih =>
    rw [List.pairwise_cons] at h
    simp only [dropAddress]
    split
    · next hd => intro hk; have := h.1 k hk; omega
    · next hd => simp only [List.mem_cons, not_or]; exact ⟨fun e => hd e.symm, ih h.2⟩

/-- Adding an address keeps the addresses rising. -/
theorem addressesRising_addAddress {k : Nat} {m : List Nat} (h : addressesRising m = true) :
    addressesRising (addAddress k m) = true := by
  rw [addressesRising_iff] at h ⊢
  induction m with
  | nil => simp [addAddress]
  | cons d rest ih =>
    rw [List.pairwise_cons] at h
    simp only [addAddress]
    split
    · next hk =>
      refine List.pairwise_cons.2 ⟨fun c hc => ?_, List.pairwise_cons.2 h⟩
      rcases List.mem_cons.1 hc with rfl | hc
      · exact hk
      · exact lt_trans hk (h.1 c hc)
    · split
      · next hk => exact List.pairwise_cons.2 h
      · next h1 h2 =>
        refine List.pairwise_cons.2 ⟨fun c hc => ?_, ih h.2⟩
        rcases mem_addAddress.1 hc with rfl | hc
        · exact lt_of_le_of_ne (Nat.le_of_not_lt h1) (Ne.symm h2)
        · exact h.1 c hc

/-- Removing an address keeps the addresses rising. -/
theorem addressesRising_dropAddress {k : Nat} {m : List Nat} (h : addressesRising m = true) :
    addressesRising (dropAddress k m) = true := by
  rw [addressesRising_iff] at h ⊢
  induction m with
  | nil => simp [dropAddress]
  | cons d rest ih =>
    rw [List.pairwise_cons] at h
    simp only [dropAddress]
    split
    · exact h.2
    · exact List.pairwise_cons.2 ⟨fun c hc => h.1 c (mem_dropAddress hc), ih h.2⟩

end Sys2Proof.Machine
end

