-- ==== Sys2Proof/Laws/Float.lean ====
section
/-! SUPPORT. What the floating-point results are held to: patterns and their magnitudes, integers, exact square roots. -/

namespace Sys2Proof.Machine

/-! ## Patterns and magnitudes -/

/-- Bits 30..0 of a pattern are exponent and mantissa. -/
theorem low31_toNat (p : Tetra) : (p.extractLsb' 0 31).toNat = (fpExponent p).toNat * 2 ^ 23 + (fpMantissa p).toNat := by
  unfold fpExponent fpMantissa
  simp only [BitVec.extractLsb'_toNat, Nat.shiftRight_eq_div_pow]
  omega

theorem fpMagnitude_eq (p : Tetra) :
    fpMagnitude p = if (fpExponent p).toNat = 0 then (fpMantissa p).toNat
      else (2 ^ 23 + (fpMantissa p).toNat) * 2 ^ ((fpExponent p).toNat - 1) := by
  unfold fpMagnitude
  by_cases h : fpExponent p = 0
  · simp [h]
  · rw [if_neg h, if_neg (fun e => h (BitVec.eq_of_toNat_eq (by simpa using e)))]

/-- The leading bit of a number with its 24 top bits at `s`. -/
theorem log2_shifted (m s : Nat) (h : m < 2 ^ 23) : ((2 ^ 23 + m) * 2 ^ s).log2 = 23 + s := by
  rw [Nat.log2_eq_iff (by positivity)]
  constructor
  · rw [pow_add]; exact Nat.mul_le_mul_right _ (by omega)
  · rw [show 23 + s + 1 = 24 + s by omega, pow_add]; exact Nat.mul_lt_mul_of_pos_right (by omega) (by positivity)

/-- A pattern is the one its sign and its magnitude make (43_floating_point.md R250 (d)). -/
theorem fpPattern_magnitude (p : Tetra) : fpPattern p.msb (fpMagnitude p) = p := by
  have hlow : BitVec.ofNat 31 ((fpMagnitude p).log2 - 23 |> fun s => s * 2 ^ 23 + fpMagnitude p / 2 ^ s) = p.extractLsb' 0 31 := by
    apply BitVec.eq_of_toNat_eq
    rw [low31_toNat, fpMagnitude_eq]
    have hm : (fpMantissa p).toNat < 2 ^ 23 := (fpMantissa p).isLt
    have he : (fpExponent p).toNat < 2 ^ 8 := (fpExponent p).isLt
    generalize (fpMantissa p).toNat = m at *
    generalize (fpExponent p).toNat = e at *
    by_cases h0 : e = 0
    · subst h0
      have hl : m.log2 - 23 = 0 := by
        by_cases hz : m = 0
        · subst hz; rfl
        · have := (Nat.log2_lt hz).2 hm
          omega
      simp only [if_true, hl, BitVec.toNat_ofNat]
      omega
    · simp only [if_neg h0, log2_shifted m (e - 1) hm, BitVec.toNat_ofNat]
      rw [show 23 + (e - 1) - 23 = e - 1 by omega, Nat.mul_div_cancel _ (by positivity)]
      omega
  unfold fpPattern
  simp only at hlow ⊢
  rw [hlow]
  unfold joinBits
  ext i hi
  by_cases h31 : i < 31
  · simp [h31, BitVec.getLsbD_eq_getElem hi]
  · obtain rfl : i = 31 := by omega
    simp [BitVec.msb_eq_getLsbD_last]

/-! ## Integers -/

theorem fpIsInteger_iff {p : Tetra} {z : Int} :
    fpIsInteger p z = true ↔ fpExponent p ≠ 0xFF ∧ signed p.msb (fpMagnitude p) = z * 2 ^ 149 := by
  simp [fpIsInteger]

/-- A pattern that is an integer is the pattern of that integer, but for the sign of a zero. -/
theorem fpPattern_of_integer {p : Tetra} {z : Int} (h : fpIsInteger p z = true) :
    fpIsInteger (fpPattern (decide (z < 0)) (z.natAbs * 2 ^ 149)) z = true := by
  obtain ⟨he, hv⟩ := fpIsInteger_iff.1 h
  by_cases hz : z = 0
  · subst hz; decide
  · have hmag : fpMagnitude p = z.natAbs * 2 ^ 149 := by
      unfold signed at hv
      split at hv <;> omega
    have hsign : p.msb = decide (z < 0) := by
      unfold signed at hv
      cases hb : p.msb
      · simp only [hb, Bool.false_eq_true, if_false] at hv
        symm; simp; omega
      · simp only [hb, if_true] at hv
        symm; simp; omega
    rw [← hmag, ← hsign, fpPattern_magnitude]
    exact h

/-- A held pattern is the integer, where some pattern is (R270, R271). -/
theorem heldPattern_of_integer {p : Tetra} {z : Int} (h : fpIsInteger p z = true) (r : Tetra) :
    fpIsInteger (heldPattern z r) z = true := by
  unfold heldPattern
  split
  · assumption
  · simp only [fpPattern_of_integer h, if_true]

/-- The integer a pattern is, is what truncation gives. -/
theorem fpTruncated_of_integer {p : Tetra} {z : Int} (h : fpIsInteger p z = true) : fpTruncated p = z := by
  obtain ⟨-, hv⟩ := fpIsInteger_iff.1 h
  unfold fpTruncated signed
  unfold signed at hv
  split at hv <;> simp only [*, if_true, Bool.false_eq_true, if_false] <;> omega

/-- Bits 31..0 of a held integer, where the pattern is one of those allowed (R268, R269). -/
theorem heldInteger_of_integer {lo hi z : Int} {p : Tetra} (h : fpIsInteger p z = true) (h1 : lo ≤ z) (h2 : z ≤ hi) (v : Word) :
    (heldInteger lo hi p v).extractLsb' 0 32 = BitVec.ofInt 32 z := by
  have ht := fpTruncated_of_integer h
  unfold heldInteger
  rw [ht, if_pos ⟨h, h1, h2⟩]
  unfold joinBits
  ext i hi
  have : i < 64 := by omega
  simp [hi, this, BitVec.getLsbD_eq_getElem]

/-! ## Square roots -/

theorem rootDown_spec (k n : Nat) (h : n < 4 ^ k) : rootDown k n * rootDown k n ≤ n ∧ n < (rootDown k n + 1) * (rootDown k n + 1) := by
  induction k generalizing n with
  | zero => simp at h; subst h; decide
  | succ k ih =>
    obtain ⟨h1, h2⟩ := ih (n / 4) (by rw [pow_succ] at h; omega)
    unfold rootDown
    simp only
    generalize rootDown k (n / 4) = r at *
    split
    · refine ⟨by assumption, ?_⟩
      nlinarith [Nat.div_add_mod n 4, Nat.mod_lt n (show 0 < 4 by decide)]
    · refine ⟨?_, by omega⟩
      have h4 : 2 * r * (2 * r) = 4 * (r * r) := by ring
      omega

theorem rootDown_square {k q : Nat} (h : q * q < 4 ^ k) : rootDown k (q * q) = q := by
  obtain ⟨h1, h2⟩ := rootDown_spec k _ h
  have a : rootDown k (q * q) ≤ q := Nat.mul_self_le_mul_self_iff.1 h1
  have b : q < rootDown k (q * q) + 1 := Nat.mul_self_lt_mul_self_iff.1 h2
  omega

theorem fpMagnitude_lt {p : Tetra} : fpMagnitude p < 2 ^ 278 := by
  rw [fpMagnitude_eq]
  have hm : (fpMantissa p).toNat < 2 ^ 23 := (fpMantissa p).isLt
  have he : (fpExponent p).toNat < 2 ^ 8 := (fpExponent p).isLt
  split
  · exact hm.trans (Nat.pow_lt_pow_right (by decide) (by decide))
  · calc (2 ^ 23 + (fpMantissa p).toNat) * 2 ^ ((fpExponent p).toNat - 1)
        < 2 ^ 24 * 2 ^ ((fpExponent p).toNat - 1) := Nat.mul_lt_mul_of_pos_right (by omega) (by positivity)
      _ ≤ 2 ^ 24 * 2 ^ 254 := Nat.mul_le_mul_left _ (Nat.pow_le_pow_right (by decide) (by omega))
      _ = 2 ^ 278 := (pow_add 2 24 254).symm

theorem fpIsRoot_iff {a r : Tetra} :
    fpIsRoot a r = true ↔ fpExponent a ≠ 0xFF ∧ fpExponent r ≠ 0xFF ∧ a.msb = false ∧ r.msb = false ∧ fpMagnitude a ≠ 0 ∧
      fpMagnitude r * fpMagnitude r = fpMagnitude a * 2 ^ 149 := by
  simp [fpIsRoot, and_assoc]

/-- Where a pattern is the exact square root of a positive number, FSQRT gives it (R261). -/
theorem fpSqrt_of_root {a r : Tetra} (h : fpIsRoot a r = true) (m : RoundingMode) : (fpSqrt m a).1 = r := by
  obtain ⟨ha, hr, hs, ht, h0, hq⟩ := fpIsRoot_iff.1 h
  have hroot : exactRoot a = r := by
    unfold exactRoot
    rw [← hq, rootDown_square, ← ht, fpPattern_magnitude]
    rw [hq]
    calc fpMagnitude a * 2 ^ 149 < 2 ^ 278 * 2 ^ 149 := Nat.mul_lt_mul_of_pos_right fpMagnitude_lt (by positivity)
      _ = 2 ^ 427 := (pow_add 2 278 149).symm
      _ ≤ 2 ^ (2 * 220) := Nat.pow_le_pow_right (by decide) (by decide)
      _ = 4 ^ 220 := pow_mul 2 2 220
  unfold fpSqrt
  rw [hroot, if_pos h]

end Sys2Proof.Machine
end

