-- ==== Sys2Proof/Laws/State.lean ====
section
/-! SUPPORT. One lemma per field per update of State, so that no proof unfolds a record update. -/

namespace Sys2Proof.Machine

/-! ### setPc -/

@[simp] theorem State.setPc_pc (s : State) (t : Word) : (s.setPc t).pc = t := rfl
@[simp] theorem State.setPc_mode (s : State) (t : Word) : (s.setPc t).mode = s.mode := rfl
@[simp] theorem State.setPc_ie (s : State) (t : Word) : (s.setPc t).ie = s.ie := rfl
@[simp] theorem State.setPc_modePrev (s : State) (t : Word) : (s.setPc t).modePrev = s.modePrev := rfl
@[simp] theorem State.setPc_iePrev (s : State) (t : Word) : (s.setPc t).iePrev = s.iePrev := rfl
@[simp] theorem State.setPc_mstatusOther (s : State) (t : Word) : (s.setPc t).mstatusOther = s.mstatusOther := rfl
@[simp] theorem State.setPc_xset0 (s : State) (t : Word) : (s.setPc t).xset0 = s.xset0 := rfl
@[simp] theorem State.setPc_xset1 (s : State) (t : Word) : (s.setPc t).xset1 = s.xset1 := rfl
@[simp] theorem State.setPc_xset2 (s : State) (t : Word) : (s.setPc t).xset2 = s.xset2 := rfl
@[simp] theorem State.setPc_freg (s : State) (t : Word) : (s.setPc t).freg = s.freg := rfl
@[simp] theorem State.setPc_regset (s : State) (t : Word) : (s.setPc t).regset = s.regset := rfl
@[simp] theorem State.setPc_fflags (s : State) (t : Word) : (s.setPc t).fflags = s.fflags := rfl
@[simp] theorem State.setPc_frm (s : State) (t : Word) : (s.setPc t).frm = s.frm := rfl
@[simp] theorem State.setPc_cycle (s : State) (t : Word) : (s.setPc t).cycle = s.cycle := rfl
@[simp] theorem State.setPc_time (s : State) (t : Word) : (s.setPc t).time = s.time := rfl
@[simp] theorem State.setPc_instret (s : State) (t : Word) : (s.setPc t).instret = s.instret := rfl
@[simp] theorem State.setPc_mtimecmp (s : State) (t : Word) : (s.setPc t).mtimecmp = s.mtimecmp := rfl
@[simp] theorem State.setPc_enabled (s : State) (t : Word) : (s.setPc t).enabled = s.enabled := rfl
@[simp] theorem State.setPc_pending (s : State) (t : Word) : (s.setPc t).pending = s.pending := rfl
@[simp] theorem State.setPc_mscratch (s : State) (t : Word) : (s.setPc t).mscratch = s.mscratch := rfl
@[simp] theorem State.setPc_mepc (s : State) (t : Word) : (s.setPc t).mepc = s.mepc := rfl
@[simp] theorem State.setPc_mcause (s : State) (t : Word) : (s.setPc t).mcause = s.mcause := rfl
@[simp] theorem State.setPc_mbadaddr (s : State) (t : Word) : (s.setPc t).mbadaddr = s.mbadaddr := rfl
@[simp] theorem State.setPc_asid (s : State) (t : Word) : (s.setPc t).asid = s.asid := rfl
@[simp] theorem State.setPc_seg (s : State) (t : Word) : (s.setPc t).seg = s.seg := rfl
@[simp] theorem State.setPc_pageMap (s : State) (t : Word) : (s.setPc t).pageMap = s.pageMap := rfl
@[simp] theorem State.setPc_mresume (s : State) (t : Word) : (s.setPc t).mresume = s.mresume := rfl
@[simp] theorem State.setPc_waiting (s : State) (t : Word) : (s.setPc t).waiting = s.waiting := rfl
@[simp] theorem State.setPc_mem (s : State) (t : Word) : (s.setPc t).mem = s.mem := rfl
@[simp] theorem State.setPc_stored (s : State) (t : Word) : (s.setPc t).stored = s.stored := rfl
@[simp] theorem State.setPc_devices (s : State) (t : Word) : (s.setPc t).devices = s.devices := rfl
@[simp] theorem State.setPc_ioWrites (s : State) (t : Word) : (s.setPc t).ioWrites = s.ioWrites := rfl
@[simp] theorem State.setPc_arrivals (s : State) (t : Word) : (s.setPc t).arrivals = s.arrivals := rfl
@[simp] theorem State.setPc_draws (s : State) (t : Word) : (s.setPc t).draws = s.draws := rfl

/-! ### advance -/

@[simp] theorem State.advance_pc (s : State) : (s.advance).pc = s.pc + 4 := rfl
@[simp] theorem State.advance_mode (s : State) : (s.advance).mode = s.mode := rfl
@[simp] theorem State.advance_ie (s : State) : (s.advance).ie = s.ie := rfl
@[simp] theorem State.advance_modePrev (s : State) : (s.advance).modePrev = s.modePrev := rfl
@[simp] theorem State.advance_iePrev (s : State) : (s.advance).iePrev = s.iePrev := rfl
@[simp] theorem State.advance_mstatusOther (s : State) : (s.advance).mstatusOther = s.mstatusOther := rfl
@[simp] theorem State.advance_xset0 (s : State) : (s.advance).xset0 = s.xset0 := rfl
@[simp] theorem State.advance_xset1 (s : State) : (s.advance).xset1 = s.xset1 := rfl
@[simp] theorem State.advance_xset2 (s : State) : (s.advance).xset2 = s.xset2 := rfl
@[simp] theorem State.advance_freg (s : State) : (s.advance).freg = s.freg := rfl
@[simp] theorem State.advance_regset (s : State) : (s.advance).regset = s.regset := rfl
@[simp] theorem State.advance_fflags (s : State) : (s.advance).fflags = s.fflags := rfl
@[simp] theorem State.advance_frm (s : State) : (s.advance).frm = s.frm := rfl
@[simp] theorem State.advance_cycle (s : State) : (s.advance).cycle = s.cycle := rfl
@[simp] theorem State.advance_time (s : State) : (s.advance).time = s.time := rfl
@[simp] theorem State.advance_instret (s : State) : (s.advance).instret = s.instret := rfl
@[simp] theorem State.advance_mtimecmp (s : State) : (s.advance).mtimecmp = s.mtimecmp := rfl
@[simp] theorem State.advance_enabled (s : State) : (s.advance).enabled = s.enabled := rfl
@[simp] theorem State.advance_pending (s : State) : (s.advance).pending = s.pending := rfl
@[simp] theorem State.advance_mscratch (s : State) : (s.advance).mscratch = s.mscratch := rfl
@[simp] theorem State.advance_mepc (s : State) : (s.advance).mepc = s.mepc := rfl
@[simp] theorem State.advance_mcause (s : State) : (s.advance).mcause = s.mcause := rfl
@[simp] theorem State.advance_mbadaddr (s : State) : (s.advance).mbadaddr = s.mbadaddr := rfl
@[simp] theorem State.advance_asid (s : State) : (s.advance).asid = s.asid := rfl
@[simp] theorem State.advance_seg (s : State) : (s.advance).seg = s.seg := rfl
@[simp] theorem State.advance_pageMap (s : State) : (s.advance).pageMap = s.pageMap := rfl
@[simp] theorem State.advance_mresume (s : State) : (s.advance).mresume = s.mresume := rfl
@[simp] theorem State.advance_waiting (s : State) : (s.advance).waiting = s.waiting := rfl
@[simp] theorem State.advance_mem (s : State) : (s.advance).mem = s.mem := rfl
@[simp] theorem State.advance_stored (s : State) : (s.advance).stored = s.stored := rfl
@[simp] theorem State.advance_devices (s : State) : (s.advance).devices = s.devices := rfl
@[simp] theorem State.advance_ioWrites (s : State) : (s.advance).ioWrites = s.ioWrites := rfl
@[simp] theorem State.advance_arrivals (s : State) : (s.advance).arrivals = s.arrivals := rfl
@[simp] theorem State.advance_draws (s : State) : (s.advance).draws = s.draws := rfl

/-! ### afterDraw -/

@[simp] theorem State.afterDraw_pc (s : State) : (s.afterDraw).pc = s.pc := rfl
@[simp] theorem State.afterDraw_mode (s : State) : (s.afterDraw).mode = s.mode := rfl
@[simp] theorem State.afterDraw_ie (s : State) : (s.afterDraw).ie = s.ie := rfl
@[simp] theorem State.afterDraw_modePrev (s : State) : (s.afterDraw).modePrev = s.modePrev := rfl
@[simp] theorem State.afterDraw_iePrev (s : State) : (s.afterDraw).iePrev = s.iePrev := rfl
@[simp] theorem State.afterDraw_mstatusOther (s : State) : (s.afterDraw).mstatusOther = s.mstatusOther := rfl
@[simp] theorem State.afterDraw_xset0 (s : State) : (s.afterDraw).xset0 = s.xset0 := rfl
@[simp] theorem State.afterDraw_xset1 (s : State) : (s.afterDraw).xset1 = s.xset1 := rfl
@[simp] theorem State.afterDraw_xset2 (s : State) : (s.afterDraw).xset2 = s.xset2 := rfl
@[simp] theorem State.afterDraw_freg (s : State) : (s.afterDraw).freg = s.freg := rfl
@[simp] theorem State.afterDraw_regset (s : State) : (s.afterDraw).regset = s.regset := rfl
@[simp] theorem State.afterDraw_fflags (s : State) : (s.afterDraw).fflags = s.fflags := rfl
@[simp] theorem State.afterDraw_frm (s : State) : (s.afterDraw).frm = s.frm := rfl
@[simp] theorem State.afterDraw_cycle (s : State) : (s.afterDraw).cycle = s.cycle := rfl
@[simp] theorem State.afterDraw_time (s : State) : (s.afterDraw).time = s.time := rfl
@[simp] theorem State.afterDraw_instret (s : State) : (s.afterDraw).instret = s.instret := rfl
@[simp] theorem State.afterDraw_mtimecmp (s : State) : (s.afterDraw).mtimecmp = s.mtimecmp := rfl
@[simp] theorem State.afterDraw_enabled (s : State) : (s.afterDraw).enabled = s.enabled := rfl
@[simp] theorem State.afterDraw_pending (s : State) : (s.afterDraw).pending = s.pending := rfl
@[simp] theorem State.afterDraw_mscratch (s : State) : (s.afterDraw).mscratch = s.mscratch := rfl
@[simp] theorem State.afterDraw_mepc (s : State) : (s.afterDraw).mepc = s.mepc := rfl
@[simp] theorem State.afterDraw_mcause (s : State) : (s.afterDraw).mcause = s.mcause := rfl
@[simp] theorem State.afterDraw_mbadaddr (s : State) : (s.afterDraw).mbadaddr = s.mbadaddr := rfl
@[simp] theorem State.afterDraw_asid (s : State) : (s.afterDraw).asid = s.asid := rfl
@[simp] theorem State.afterDraw_seg (s : State) : (s.afterDraw).seg = s.seg := rfl
@[simp] theorem State.afterDraw_pageMap (s : State) : (s.afterDraw).pageMap = s.pageMap := rfl
@[simp] theorem State.afterDraw_mresume (s : State) : (s.afterDraw).mresume = s.mresume := rfl
@[simp] theorem State.afterDraw_waiting (s : State) : (s.afterDraw).waiting = s.waiting := rfl
@[simp] theorem State.afterDraw_mem (s : State) : (s.afterDraw).mem = s.mem := rfl
@[simp] theorem State.afterDraw_stored (s : State) : (s.afterDraw).stored = s.stored := rfl
@[simp] theorem State.afterDraw_devices (s : State) : (s.afterDraw).devices = s.devices := rfl
@[simp] theorem State.afterDraw_ioWrites (s : State) : (s.afterDraw).ioWrites = s.ioWrites := rfl
@[simp] theorem State.afterDraw_arrivals (s : State) : (s.afterDraw).arrivals = s.arrivals := rfl
@[simp] theorem State.afterDraw_draws (s : State) : (s.afterDraw).draws = s.draws + 1 := rfl

/-! ### accrue -/

@[simp] theorem State.accrue_pc (s : State) (fl : BitVec 5) : (s.accrue fl).pc = s.pc := rfl
@[simp] theorem State.accrue_mode (s : State) (fl : BitVec 5) : (s.accrue fl).mode = s.mode := rfl
@[simp] theorem State.accrue_ie (s : State) (fl : BitVec 5) : (s.accrue fl).ie = s.ie := rfl
@[simp] theorem State.accrue_modePrev (s : State) (fl : BitVec 5) : (s.accrue fl).modePrev = s.modePrev := rfl
@[simp] theorem State.accrue_iePrev (s : State) (fl : BitVec 5) : (s.accrue fl).iePrev = s.iePrev := rfl
@[simp] theorem State.accrue_mstatusOther (s : State) (fl : BitVec 5) : (s.accrue fl).mstatusOther = s.mstatusOther := rfl
@[simp] theorem State.accrue_xset0 (s : State) (fl : BitVec 5) : (s.accrue fl).xset0 = s.xset0 := rfl
@[simp] theorem State.accrue_xset1 (s : State) (fl : BitVec 5) : (s.accrue fl).xset1 = s.xset1 := rfl
@[simp] theorem State.accrue_xset2 (s : State) (fl : BitVec 5) : (s.accrue fl).xset2 = s.xset2 := rfl
@[simp] theorem State.accrue_freg (s : State) (fl : BitVec 5) : (s.accrue fl).freg = s.freg := rfl
@[simp] theorem State.accrue_regset (s : State) (fl : BitVec 5) : (s.accrue fl).regset = s.regset := rfl
@[simp] theorem State.accrue_fflags (s : State) (fl : BitVec 5) : (s.accrue fl).fflags = s.fflags ||| fl := rfl
@[simp] theorem State.accrue_frm (s : State) (fl : BitVec 5) : (s.accrue fl).frm = s.frm := rfl
@[simp] theorem State.accrue_cycle (s : State) (fl : BitVec 5) : (s.accrue fl).cycle = s.cycle := rfl
@[simp] theorem State.accrue_time (s : State) (fl : BitVec 5) : (s.accrue fl).time = s.time := rfl
@[simp] theorem State.accrue_instret (s : State) (fl : BitVec 5) : (s.accrue fl).instret = s.instret := rfl
@[simp] theorem State.accrue_mtimecmp (s : State) (fl : BitVec 5) : (s.accrue fl).mtimecmp = s.mtimecmp := rfl
@[simp] theorem State.accrue_enabled (s : State) (fl : BitVec 5) : (s.accrue fl).enabled = s.enabled := rfl
@[simp] theorem State.accrue_pending (s : State) (fl : BitVec 5) : (s.accrue fl).pending = s.pending := rfl
@[simp] theorem State.accrue_mscratch (s : State) (fl : BitVec 5) : (s.accrue fl).mscratch = s.mscratch := rfl
@[simp] theorem State.accrue_mepc (s : State) (fl : BitVec 5) : (s.accrue fl).mepc = s.mepc := rfl
@[simp] theorem State.accrue_mcause (s : State) (fl : BitVec 5) : (s.accrue fl).mcause = s.mcause := rfl
@[simp] theorem State.accrue_mbadaddr (s : State) (fl : BitVec 5) : (s.accrue fl).mbadaddr = s.mbadaddr := rfl
@[simp] theorem State.accrue_asid (s : State) (fl : BitVec 5) : (s.accrue fl).asid = s.asid := rfl
@[simp] theorem State.accrue_seg (s : State) (fl : BitVec 5) : (s.accrue fl).seg = s.seg := rfl
@[simp] theorem State.accrue_pageMap (s : State) (fl : BitVec 5) : (s.accrue fl).pageMap = s.pageMap := rfl
@[simp] theorem State.accrue_mresume (s : State) (fl : BitVec 5) : (s.accrue fl).mresume = s.mresume := rfl
@[simp] theorem State.accrue_waiting (s : State) (fl : BitVec 5) : (s.accrue fl).waiting = s.waiting := rfl
@[simp] theorem State.accrue_mem (s : State) (fl : BitVec 5) : (s.accrue fl).mem = s.mem := rfl
@[simp] theorem State.accrue_stored (s : State) (fl : BitVec 5) : (s.accrue fl).stored = s.stored := rfl
@[simp] theorem State.accrue_devices (s : State) (fl : BitVec 5) : (s.accrue fl).devices = s.devices := rfl
@[simp] theorem State.accrue_ioWrites (s : State) (fl : BitVec 5) : (s.accrue fl).ioWrites = s.ioWrites := rfl
@[simp] theorem State.accrue_arrivals (s : State) (fl : BitVec 5) : (s.accrue fl).arrivals = s.arrivals := rfl
@[simp] theorem State.accrue_draws (s : State) (fl : BitVec 5) : (s.accrue fl).draws = s.draws := rfl

/-! ### setSeg -/

@[simp] theorem State.setSeg_pc (s : State) (n : BitVec 4) (v : BitVec 32) : (s.setSeg n v).pc = s.pc := rfl
@[simp] theorem State.setSeg_mode (s : State) (n : BitVec 4) (v : BitVec 32) : (s.setSeg n v).mode = s.mode := rfl
@[simp] theorem State.setSeg_ie (s : State) (n : BitVec 4) (v : BitVec 32) : (s.setSeg n v).ie = s.ie := rfl
@[simp] theorem State.setSeg_modePrev (s : State) (n : BitVec 4) (v : BitVec 32) : (s.setSeg n v).modePrev = s.modePrev := rfl
@[simp] theorem State.setSeg_iePrev (s : State) (n : BitVec 4) (v : BitVec 32) : (s.setSeg n v).iePrev = s.iePrev := rfl
@[simp] theorem State.setSeg_mstatusOther (s : State) (n : BitVec 4) (v : BitVec 32) : (s.setSeg n v).mstatusOther = s.mstatusOther := rfl
@[simp] theorem State.setSeg_xset0 (s : State) (n : BitVec 4) (v : BitVec 32) : (s.setSeg n v).xset0 = s.xset0 := rfl
@[simp] theorem State.setSeg_xset1 (s : State) (n : BitVec 4) (v : BitVec 32) : (s.setSeg n v).xset1 = s.xset1 := rfl
@[simp] theorem State.setSeg_xset2 (s : State) (n : BitVec 4) (v : BitVec 32) : (s.setSeg n v).xset2 = s.xset2 := rfl
@[simp] theorem State.setSeg_freg (s : State) (n : BitVec 4) (v : BitVec 32) : (s.setSeg n v).freg = s.freg := rfl
@[simp] theorem State.setSeg_regset (s : State) (n : BitVec 4) (v : BitVec 32) : (s.setSeg n v).regset = s.regset := rfl
@[simp] theorem State.setSeg_fflags (s : State) (n : BitVec 4) (v : BitVec 32) : (s.setSeg n v).fflags = s.fflags := rfl
@[simp] theorem State.setSeg_frm (s : State) (n : BitVec 4) (v : BitVec 32) : (s.setSeg n v).frm = s.frm := rfl
@[simp] theorem State.setSeg_cycle (s : State) (n : BitVec 4) (v : BitVec 32) : (s.setSeg n v).cycle = s.cycle := rfl
@[simp] theorem State.setSeg_time (s : State) (n : BitVec 4) (v : BitVec 32) : (s.setSeg n v).time = s.time := rfl
@[simp] theorem State.setSeg_instret (s : State) (n : BitVec 4) (v : BitVec 32) : (s.setSeg n v).instret = s.instret := rfl
@[simp] theorem State.setSeg_mtimecmp (s : State) (n : BitVec 4) (v : BitVec 32) : (s.setSeg n v).mtimecmp = s.mtimecmp := rfl
@[simp] theorem State.setSeg_enabled (s : State) (n : BitVec 4) (v : BitVec 32) : (s.setSeg n v).enabled = s.enabled := rfl
@[simp] theorem State.setSeg_pending (s : State) (n : BitVec 4) (v : BitVec 32) : (s.setSeg n v).pending = s.pending := rfl
@[simp] theorem State.setSeg_mscratch (s : State) (n : BitVec 4) (v : BitVec 32) : (s.setSeg n v).mscratch = s.mscratch := rfl
@[simp] theorem State.setSeg_mepc (s : State) (n : BitVec 4) (v : BitVec 32) : (s.setSeg n v).mepc = s.mepc := rfl
@[simp] theorem State.setSeg_mcause (s : State) (n : BitVec 4) (v : BitVec 32) : (s.setSeg n v).mcause = s.mcause := rfl
@[simp] theorem State.setSeg_mbadaddr (s : State) (n : BitVec 4) (v : BitVec 32) : (s.setSeg n v).mbadaddr = s.mbadaddr := rfl
@[simp] theorem State.setSeg_asid (s : State) (n : BitVec 4) (v : BitVec 32) : (s.setSeg n v).asid = s.asid := rfl
@[simp] theorem State.setSeg_seg (s : State) (n : BitVec 4) (v : BitVec 32) : (s.setSeg n v).seg = s.seg.set n.toNat v n.isLt := rfl
@[simp] theorem State.setSeg_pageMap (s : State) (n : BitVec 4) (v : BitVec 32) : (s.setSeg n v).pageMap = s.pageMap := rfl
@[simp] theorem State.setSeg_mresume (s : State) (n : BitVec 4) (v : BitVec 32) : (s.setSeg n v).mresume = s.mresume := rfl
@[simp] theorem State.setSeg_waiting (s : State) (n : BitVec 4) (v : BitVec 32) : (s.setSeg n v).waiting = s.waiting := rfl
@[simp] theorem State.setSeg_mem (s : State) (n : BitVec 4) (v : BitVec 32) : (s.setSeg n v).mem = s.mem := rfl
@[simp] theorem State.setSeg_stored (s : State) (n : BitVec 4) (v : BitVec 32) : (s.setSeg n v).stored = s.stored := rfl
@[simp] theorem State.setSeg_devices (s : State) (n : BitVec 4) (v : BitVec 32) : (s.setSeg n v).devices = s.devices := rfl
@[simp] theorem State.setSeg_ioWrites (s : State) (n : BitVec 4) (v : BitVec 32) : (s.setSeg n v).ioWrites = s.ioWrites := rfl
@[simp] theorem State.setSeg_arrivals (s : State) (n : BitVec 4) (v : BitVec 32) : (s.setSeg n v).arrivals = s.arrivals := rfl
@[simp] theorem State.setSeg_draws (s : State) (n : BitVec 4) (v : BitVec 32) : (s.setSeg n v).draws = s.draws := rfl

/-! ### setMap -/

@[simp] theorem State.setMap_pc (s : State) (a : BitVec 6) (v : BitVec mapIndexBits) (e : BitVec mapEntryBits) : (s.setMap a v e).pc = s.pc := rfl
@[simp] theorem State.setMap_mode (s : State) (a : BitVec 6) (v : BitVec mapIndexBits) (e : BitVec mapEntryBits) : (s.setMap a v e).mode = s.mode := rfl
@[simp] theorem State.setMap_ie (s : State) (a : BitVec 6) (v : BitVec mapIndexBits) (e : BitVec mapEntryBits) : (s.setMap a v e).ie = s.ie := rfl
@[simp] theorem State.setMap_modePrev (s : State) (a : BitVec 6) (v : BitVec mapIndexBits) (e : BitVec mapEntryBits) : (s.setMap a v e).modePrev = s.modePrev := rfl
@[simp] theorem State.setMap_iePrev (s : State) (a : BitVec 6) (v : BitVec mapIndexBits) (e : BitVec mapEntryBits) : (s.setMap a v e).iePrev = s.iePrev := rfl
@[simp] theorem State.setMap_mstatusOther (s : State) (a : BitVec 6) (v : BitVec mapIndexBits) (e : BitVec mapEntryBits) : (s.setMap a v e).mstatusOther = s.mstatusOther := rfl
@[simp] theorem State.setMap_xset0 (s : State) (a : BitVec 6) (v : BitVec mapIndexBits) (e : BitVec mapEntryBits) : (s.setMap a v e).xset0 = s.xset0 := rfl
@[simp] theorem State.setMap_xset1 (s : State) (a : BitVec 6) (v : BitVec mapIndexBits) (e : BitVec mapEntryBits) : (s.setMap a v e).xset1 = s.xset1 := rfl
@[simp] theorem State.setMap_xset2 (s : State) (a : BitVec 6) (v : BitVec mapIndexBits) (e : BitVec mapEntryBits) : (s.setMap a v e).xset2 = s.xset2 := rfl
@[simp] theorem State.setMap_freg (s : State) (a : BitVec 6) (v : BitVec mapIndexBits) (e : BitVec mapEntryBits) : (s.setMap a v e).freg = s.freg := rfl
@[simp] theorem State.setMap_regset (s : State) (a : BitVec 6) (v : BitVec mapIndexBits) (e : BitVec mapEntryBits) : (s.setMap a v e).regset = s.regset := rfl
@[simp] theorem State.setMap_fflags (s : State) (a : BitVec 6) (v : BitVec mapIndexBits) (e : BitVec mapEntryBits) : (s.setMap a v e).fflags = s.fflags := rfl
@[simp] theorem State.setMap_frm (s : State) (a : BitVec 6) (v : BitVec mapIndexBits) (e : BitVec mapEntryBits) : (s.setMap a v e).frm = s.frm := rfl
@[simp] theorem State.setMap_cycle (s : State) (a : BitVec 6) (v : BitVec mapIndexBits) (e : BitVec mapEntryBits) : (s.setMap a v e).cycle = s.cycle := rfl
@[simp] theorem State.setMap_time (s : State) (a : BitVec 6) (v : BitVec mapIndexBits) (e : BitVec mapEntryBits) : (s.setMap a v e).time = s.time := rfl
@[simp] theorem State.setMap_instret (s : State) (a : BitVec 6) (v : BitVec mapIndexBits) (e : BitVec mapEntryBits) : (s.setMap a v e).instret = s.instret := rfl
@[simp] theorem State.setMap_mtimecmp (s : State) (a : BitVec 6) (v : BitVec mapIndexBits) (e : BitVec mapEntryBits) : (s.setMap a v e).mtimecmp = s.mtimecmp := rfl
@[simp] theorem State.setMap_enabled (s : State) (a : BitVec 6) (v : BitVec mapIndexBits) (e : BitVec mapEntryBits) : (s.setMap a v e).enabled = s.enabled := rfl
@[simp] theorem State.setMap_pending (s : State) (a : BitVec 6) (v : BitVec mapIndexBits) (e : BitVec mapEntryBits) : (s.setMap a v e).pending = s.pending := rfl
@[simp] theorem State.setMap_mscratch (s : State) (a : BitVec 6) (v : BitVec mapIndexBits) (e : BitVec mapEntryBits) : (s.setMap a v e).mscratch = s.mscratch := rfl
@[simp] theorem State.setMap_mepc (s : State) (a : BitVec 6) (v : BitVec mapIndexBits) (e : BitVec mapEntryBits) : (s.setMap a v e).mepc = s.mepc := rfl
@[simp] theorem State.setMap_mcause (s : State) (a : BitVec 6) (v : BitVec mapIndexBits) (e : BitVec mapEntryBits) : (s.setMap a v e).mcause = s.mcause := rfl
@[simp] theorem State.setMap_mbadaddr (s : State) (a : BitVec 6) (v : BitVec mapIndexBits) (e : BitVec mapEntryBits) : (s.setMap a v e).mbadaddr = s.mbadaddr := rfl
@[simp] theorem State.setMap_asid (s : State) (a : BitVec 6) (v : BitVec mapIndexBits) (e : BitVec mapEntryBits) : (s.setMap a v e).asid = s.asid := rfl
@[simp] theorem State.setMap_seg (s : State) (a : BitVec 6) (v : BitVec mapIndexBits) (e : BitVec mapEntryBits) : (s.setMap a v e).seg = s.seg := rfl
@[simp] theorem State.setMap_pageMap (s : State) (a : BitVec 6) (v : BitVec mapIndexBits) (e : BitVec mapEntryBits) : (s.setMap a v e).pageMap = if e = resetMapEntry then cellDrop (mapKey a v) s.pageMap else cellPut (mapKey a v) e s.pageMap := rfl
@[simp] theorem State.setMap_mresume (s : State) (a : BitVec 6) (v : BitVec mapIndexBits) (e : BitVec mapEntryBits) : (s.setMap a v e).mresume = s.mresume := rfl
@[simp] theorem State.setMap_waiting (s : State) (a : BitVec 6) (v : BitVec mapIndexBits) (e : BitVec mapEntryBits) : (s.setMap a v e).waiting = s.waiting := rfl
@[simp] theorem State.setMap_mem (s : State) (a : BitVec 6) (v : BitVec mapIndexBits) (e : BitVec mapEntryBits) : (s.setMap a v e).mem = s.mem := rfl
@[simp] theorem State.setMap_stored (s : State) (a : BitVec 6) (v : BitVec mapIndexBits) (e : BitVec mapEntryBits) : (s.setMap a v e).stored = s.stored := rfl
@[simp] theorem State.setMap_devices (s : State) (a : BitVec 6) (v : BitVec mapIndexBits) (e : BitVec mapEntryBits) : (s.setMap a v e).devices = s.devices := rfl
@[simp] theorem State.setMap_ioWrites (s : State) (a : BitVec 6) (v : BitVec mapIndexBits) (e : BitVec mapEntryBits) : (s.setMap a v e).ioWrites = s.ioWrites := rfl
@[simp] theorem State.setMap_arrivals (s : State) (a : BitVec 6) (v : BitVec mapIndexBits) (e : BitVec mapEntryBits) : (s.setMap a v e).arrivals = s.arrivals := rfl
@[simp] theorem State.setMap_draws (s : State) (a : BitVec 6) (v : BitVec mapIndexBits) (e : BitVec mapEntryBits) : (s.setMap a v e).draws = s.draws := rfl

/-! ### setMstatus -/

@[simp] theorem State.setMstatus_pc (s : State) (f : MstatusFields) : (s.setMstatus f).pc = s.pc := rfl
@[simp] theorem State.setMstatus_mode (s : State) (f : MstatusFields) : (s.setMstatus f).mode = f.mode := rfl
@[simp] theorem State.setMstatus_ie (s : State) (f : MstatusFields) : (s.setMstatus f).ie = f.ie := rfl
@[simp] theorem State.setMstatus_modePrev (s : State) (f : MstatusFields) : (s.setMstatus f).modePrev = f.modePrev := rfl
@[simp] theorem State.setMstatus_iePrev (s : State) (f : MstatusFields) : (s.setMstatus f).iePrev = f.iePrev := rfl
@[simp] theorem State.setMstatus_mstatusOther (s : State) (f : MstatusFields) : (s.setMstatus f).mstatusOther = f.other := rfl
@[simp] theorem State.setMstatus_xset0 (s : State) (f : MstatusFields) : (s.setMstatus f).xset0 = s.xset0 := rfl
@[simp] theorem State.setMstatus_xset1 (s : State) (f : MstatusFields) : (s.setMstatus f).xset1 = s.xset1 := rfl
@[simp] theorem State.setMstatus_xset2 (s : State) (f : MstatusFields) : (s.setMstatus f).xset2 = s.xset2 := rfl
@[simp] theorem State.setMstatus_freg (s : State) (f : MstatusFields) : (s.setMstatus f).freg = s.freg := rfl
@[simp] theorem State.setMstatus_regset (s : State) (f : MstatusFields) : (s.setMstatus f).regset = s.regset := rfl
@[simp] theorem State.setMstatus_fflags (s : State) (f : MstatusFields) : (s.setMstatus f).fflags = s.fflags := rfl
@[simp] theorem State.setMstatus_frm (s : State) (f : MstatusFields) : (s.setMstatus f).frm = s.frm := rfl
@[simp] theorem State.setMstatus_cycle (s : State) (f : MstatusFields) : (s.setMstatus f).cycle = s.cycle := rfl
@[simp] theorem State.setMstatus_time (s : State) (f : MstatusFields) : (s.setMstatus f).time = s.time := rfl
@[simp] theorem State.setMstatus_instret (s : State) (f : MstatusFields) : (s.setMstatus f).instret = s.instret := rfl
@[simp] theorem State.setMstatus_mtimecmp (s : State) (f : MstatusFields) : (s.setMstatus f).mtimecmp = s.mtimecmp := rfl
@[simp] theorem State.setMstatus_enabled (s : State) (f : MstatusFields) : (s.setMstatus f).enabled = s.enabled := rfl
@[simp] theorem State.setMstatus_pending (s : State) (f : MstatusFields) : (s.setMstatus f).pending = s.pending := rfl
@[simp] theorem State.setMstatus_mscratch (s : State) (f : MstatusFields) : (s.setMstatus f).mscratch = s.mscratch := rfl
@[simp] theorem State.setMstatus_mepc (s : State) (f : MstatusFields) : (s.setMstatus f).mepc = s.mepc := rfl
@[simp] theorem State.setMstatus_mcause (s : State) (f : MstatusFields) : (s.setMstatus f).mcause = s.mcause := rfl
@[simp] theorem State.setMstatus_mbadaddr (s : State) (f : MstatusFields) : (s.setMstatus f).mbadaddr = s.mbadaddr := rfl
@[simp] theorem State.setMstatus_asid (s : State) (f : MstatusFields) : (s.setMstatus f).asid = s.asid := rfl
@[simp] theorem State.setMstatus_seg (s : State) (f : MstatusFields) : (s.setMstatus f).seg = s.seg := rfl
@[simp] theorem State.setMstatus_pageMap (s : State) (f : MstatusFields) : (s.setMstatus f).pageMap = s.pageMap := rfl
@[simp] theorem State.setMstatus_mresume (s : State) (f : MstatusFields) : (s.setMstatus f).mresume = s.mresume := rfl
@[simp] theorem State.setMstatus_waiting (s : State) (f : MstatusFields) : (s.setMstatus f).waiting = s.waiting := rfl
@[simp] theorem State.setMstatus_mem (s : State) (f : MstatusFields) : (s.setMstatus f).mem = s.mem := rfl
@[simp] theorem State.setMstatus_stored (s : State) (f : MstatusFields) : (s.setMstatus f).stored = s.stored := rfl
@[simp] theorem State.setMstatus_devices (s : State) (f : MstatusFields) : (s.setMstatus f).devices = s.devices := rfl
@[simp] theorem State.setMstatus_ioWrites (s : State) (f : MstatusFields) : (s.setMstatus f).ioWrites = s.ioWrites := rfl
@[simp] theorem State.setMstatus_arrivals (s : State) (f : MstatusFields) : (s.setMstatus f).arrivals = s.arrivals := rfl
@[simp] theorem State.setMstatus_draws (s : State) (f : MstatusFields) : (s.setMstatus f).draws = s.draws := rfl

/-! ### writeByte -/

@[simp] theorem writeByte_pc (a : Nat) (b : Byte) (s : State) : (writeByte a b s).pc = s.pc := rfl
@[simp] theorem writeByte_mode (a : Nat) (b : Byte) (s : State) : (writeByte a b s).mode = s.mode := rfl
@[simp] theorem writeByte_ie (a : Nat) (b : Byte) (s : State) : (writeByte a b s).ie = s.ie := rfl
@[simp] theorem writeByte_modePrev (a : Nat) (b : Byte) (s : State) : (writeByte a b s).modePrev = s.modePrev := rfl
@[simp] theorem writeByte_iePrev (a : Nat) (b : Byte) (s : State) : (writeByte a b s).iePrev = s.iePrev := rfl
@[simp] theorem writeByte_mstatusOther (a : Nat) (b : Byte) (s : State) : (writeByte a b s).mstatusOther = s.mstatusOther := rfl
@[simp] theorem writeByte_xset0 (a : Nat) (b : Byte) (s : State) : (writeByte a b s).xset0 = s.xset0 := rfl
@[simp] theorem writeByte_xset1 (a : Nat) (b : Byte) (s : State) : (writeByte a b s).xset1 = s.xset1 := rfl
@[simp] theorem writeByte_xset2 (a : Nat) (b : Byte) (s : State) : (writeByte a b s).xset2 = s.xset2 := rfl
@[simp] theorem writeByte_freg (a : Nat) (b : Byte) (s : State) : (writeByte a b s).freg = s.freg := rfl
@[simp] theorem writeByte_regset (a : Nat) (b : Byte) (s : State) : (writeByte a b s).regset = s.regset := rfl
@[simp] theorem writeByte_fflags (a : Nat) (b : Byte) (s : State) : (writeByte a b s).fflags = s.fflags := rfl
@[simp] theorem writeByte_frm (a : Nat) (b : Byte) (s : State) : (writeByte a b s).frm = s.frm := rfl
@[simp] theorem writeByte_cycle (a : Nat) (b : Byte) (s : State) : (writeByte a b s).cycle = s.cycle := rfl
@[simp] theorem writeByte_time (a : Nat) (b : Byte) (s : State) : (writeByte a b s).time = s.time := rfl
@[simp] theorem writeByte_instret (a : Nat) (b : Byte) (s : State) : (writeByte a b s).instret = s.instret := rfl
@[simp] theorem writeByte_mtimecmp (a : Nat) (b : Byte) (s : State) : (writeByte a b s).mtimecmp = s.mtimecmp := rfl
@[simp] theorem writeByte_enabled (a : Nat) (b : Byte) (s : State) : (writeByte a b s).enabled = s.enabled := rfl
@[simp] theorem writeByte_pending (a : Nat) (b : Byte) (s : State) : (writeByte a b s).pending = s.pending := rfl
@[simp] theorem writeByte_mscratch (a : Nat) (b : Byte) (s : State) : (writeByte a b s).mscratch = s.mscratch := rfl
@[simp] theorem writeByte_mepc (a : Nat) (b : Byte) (s : State) : (writeByte a b s).mepc = s.mepc := rfl
@[simp] theorem writeByte_mcause (a : Nat) (b : Byte) (s : State) : (writeByte a b s).mcause = s.mcause := rfl
@[simp] theorem writeByte_mbadaddr (a : Nat) (b : Byte) (s : State) : (writeByte a b s).mbadaddr = s.mbadaddr := rfl
@[simp] theorem writeByte_asid (a : Nat) (b : Byte) (s : State) : (writeByte a b s).asid = s.asid := rfl
@[simp] theorem writeByte_seg (a : Nat) (b : Byte) (s : State) : (writeByte a b s).seg = s.seg := rfl
@[simp] theorem writeByte_pageMap (a : Nat) (b : Byte) (s : State) : (writeByte a b s).pageMap = s.pageMap := rfl
@[simp] theorem writeByte_mresume (a : Nat) (b : Byte) (s : State) : (writeByte a b s).mresume = s.mresume := rfl
@[simp] theorem writeByte_waiting (a : Nat) (b : Byte) (s : State) : (writeByte a b s).waiting = s.waiting := rfl
@[simp] theorem writeByte_mem (a : Nat) (b : Byte) (s : State) : (writeByte a b s).mem = if s.isWritable a then cellPut a b s.mem else s.mem := rfl
@[simp] theorem writeByte_stored (a : Nat) (b : Byte) (s : State) : (writeByte a b s).stored = addAddress a s.stored := rfl
@[simp] theorem writeByte_devices (a : Nat) (b : Byte) (s : State) : (writeByte a b s).devices = s.devices := rfl
@[simp] theorem writeByte_ioWrites (a : Nat) (b : Byte) (s : State) : (writeByte a b s).ioWrites = s.ioWrites := rfl
@[simp] theorem writeByte_arrivals (a : Nat) (b : Byte) (s : State) : (writeByte a b s).arrivals = s.arrivals := rfl
@[simp] theorem writeByte_draws (a : Nat) (b : Byte) (s : State) : (writeByte a b s).draws = s.draws := rfl

/-! ### setX -/

@[simp] theorem State.setX_pc (s : State) (b : RegSet) (i : Reg) (v : Word) : (s.setX b i v).pc = s.pc := by
  unfold State.setX State.setBank; split <;> cases b <;> rfl
@[simp] theorem State.setX_mode (s : State) (b : RegSet) (i : Reg) (v : Word) : (s.setX b i v).mode = s.mode := by
  unfold State.setX State.setBank; split <;> cases b <;> rfl
@[simp] theorem State.setX_ie (s : State) (b : RegSet) (i : Reg) (v : Word) : (s.setX b i v).ie = s.ie := by
  unfold State.setX State.setBank; split <;> cases b <;> rfl
@[simp] theorem State.setX_modePrev (s : State) (b : RegSet) (i : Reg) (v : Word) : (s.setX b i v).modePrev = s.modePrev := by
  unfold State.setX State.setBank; split <;> cases b <;> rfl
@[simp] theorem State.setX_iePrev (s : State) (b : RegSet) (i : Reg) (v : Word) : (s.setX b i v).iePrev = s.iePrev := by
  unfold State.setX State.setBank; split <;> cases b <;> rfl
@[simp] theorem State.setX_mstatusOther (s : State) (b : RegSet) (i : Reg) (v : Word) : (s.setX b i v).mstatusOther = s.mstatusOther := by
  unfold State.setX State.setBank; split <;> cases b <;> rfl
@[simp] theorem State.setX_freg (s : State) (b : RegSet) (i : Reg) (v : Word) : (s.setX b i v).freg = s.freg := by
  unfold State.setX State.setBank; split <;> cases b <;> rfl
@[simp] theorem State.setX_regset (s : State) (b : RegSet) (i : Reg) (v : Word) : (s.setX b i v).regset = s.regset := by
  unfold State.setX State.setBank; split <;> cases b <;> rfl
@[simp] theorem State.setX_fflags (s : State) (b : RegSet) (i : Reg) (v : Word) : (s.setX b i v).fflags = s.fflags := by
  unfold State.setX State.setBank; split <;> cases b <;> rfl
@[simp] theorem State.setX_frm (s : State) (b : RegSet) (i : Reg) (v : Word) : (s.setX b i v).frm = s.frm := by
  unfold State.setX State.setBank; split <;> cases b <;> rfl
@[simp] theorem State.setX_cycle (s : State) (b : RegSet) (i : Reg) (v : Word) : (s.setX b i v).cycle = s.cycle := by
  unfold State.setX State.setBank; split <;> cases b <;> rfl
@[simp] theorem State.setX_time (s : State) (b : RegSet) (i : Reg) (v : Word) : (s.setX b i v).time = s.time := by
  unfold State.setX State.setBank; split <;> cases b <;> rfl
@[simp] theorem State.setX_instret (s : State) (b : RegSet) (i : Reg) (v : Word) : (s.setX b i v).instret = s.instret := by
  unfold State.setX State.setBank; split <;> cases b <;> rfl
@[simp] theorem State.setX_mtimecmp (s : State) (b : RegSet) (i : Reg) (v : Word) : (s.setX b i v).mtimecmp = s.mtimecmp := by
  unfold State.setX State.setBank; split <;> cases b <;> rfl
@[simp] theorem State.setX_enabled (s : State) (b : RegSet) (i : Reg) (v : Word) : (s.setX b i v).enabled = s.enabled := by
  unfold State.setX State.setBank; split <;> cases b <;> rfl
@[simp] theorem State.setX_pending (s : State) (b : RegSet) (i : Reg) (v : Word) : (s.setX b i v).pending = s.pending := by
  unfold State.setX State.setBank; split <;> cases b <;> rfl
@[simp] theorem State.setX_mscratch (s : State) (b : RegSet) (i : Reg) (v : Word) : (s.setX b i v).mscratch = s.mscratch := by
  unfold State.setX State.setBank; split <;> cases b <;> rfl
@[simp] theorem State.setX_mepc (s : State) (b : RegSet) (i : Reg) (v : Word) : (s.setX b i v).mepc = s.mepc := by
  unfold State.setX State.setBank; split <;> cases b <;> rfl
@[simp] theorem State.setX_mcause (s : State) (b : RegSet) (i : Reg) (v : Word) : (s.setX b i v).mcause = s.mcause := by
  unfold State.setX State.setBank; split <;> cases b <;> rfl
@[simp] theorem State.setX_mbadaddr (s : State) (b : RegSet) (i : Reg) (v : Word) : (s.setX b i v).mbadaddr = s.mbadaddr := by
  unfold State.setX State.setBank; split <;> cases b <;> rfl
@[simp] theorem State.setX_asid (s : State) (b : RegSet) (i : Reg) (v : Word) : (s.setX b i v).asid = s.asid := by
  unfold State.setX State.setBank; split <;> cases b <;> rfl
@[simp] theorem State.setX_seg (s : State) (b : RegSet) (i : Reg) (v : Word) : (s.setX b i v).seg = s.seg := by
  unfold State.setX State.setBank; split <;> cases b <;> rfl
@[simp] theorem State.setX_pageMap (s : State) (b : RegSet) (i : Reg) (v : Word) : (s.setX b i v).pageMap = s.pageMap := by
  unfold State.setX State.setBank; split <;> cases b <;> rfl
@[simp] theorem State.setX_mresume (s : State) (b : RegSet) (i : Reg) (v : Word) : (s.setX b i v).mresume = s.mresume := by
  unfold State.setX State.setBank; split <;> cases b <;> rfl
@[simp] theorem State.setX_waiting (s : State) (b : RegSet) (i : Reg) (v : Word) : (s.setX b i v).waiting = s.waiting := by
  unfold State.setX State.setBank; split <;> cases b <;> rfl
@[simp] theorem State.setX_mem (s : State) (b : RegSet) (i : Reg) (v : Word) : (s.setX b i v).mem = s.mem := by
  unfold State.setX State.setBank; split <;> cases b <;> rfl
@[simp] theorem State.setX_stored (s : State) (b : RegSet) (i : Reg) (v : Word) : (s.setX b i v).stored = s.stored := by
  unfold State.setX State.setBank; split <;> cases b <;> rfl
@[simp] theorem State.setX_devices (s : State) (b : RegSet) (i : Reg) (v : Word) : (s.setX b i v).devices = s.devices := by
  unfold State.setX State.setBank; split <;> cases b <;> rfl
@[simp] theorem State.setX_ioWrites (s : State) (b : RegSet) (i : Reg) (v : Word) : (s.setX b i v).ioWrites = s.ioWrites := by
  unfold State.setX State.setBank; split <;> cases b <;> rfl
@[simp] theorem State.setX_arrivals (s : State) (b : RegSet) (i : Reg) (v : Word) : (s.setX b i v).arrivals = s.arrivals := by
  unfold State.setX State.setBank; split <;> cases b <;> rfl
@[simp] theorem State.setX_draws (s : State) (b : RegSet) (i : Reg) (v : Word) : (s.setX b i v).draws = s.draws := by
  unfold State.setX State.setBank; split <;> cases b <;> rfl

/-! ### setF -/

@[simp] theorem State.setF_pc (s : State) (i : Reg) (r : Tetra) : (s.setF i r).pc = s.pc := by
  unfold State.setF; split <;> rfl
@[simp] theorem State.setF_mode (s : State) (i : Reg) (r : Tetra) : (s.setF i r).mode = s.mode := by
  unfold State.setF; split <;> rfl
@[simp] theorem State.setF_ie (s : State) (i : Reg) (r : Tetra) : (s.setF i r).ie = s.ie := by
  unfold State.setF; split <;> rfl
@[simp] theorem State.setF_modePrev (s : State) (i : Reg) (r : Tetra) : (s.setF i r).modePrev = s.modePrev := by
  unfold State.setF; split <;> rfl
@[simp] theorem State.setF_iePrev (s : State) (i : Reg) (r : Tetra) : (s.setF i r).iePrev = s.iePrev := by
  unfold State.setF; split <;> rfl
@[simp] theorem State.setF_mstatusOther (s : State) (i : Reg) (r : Tetra) : (s.setF i r).mstatusOther = s.mstatusOther := by
  unfold State.setF; split <;> rfl
@[simp] theorem State.setF_xset0 (s : State) (i : Reg) (r : Tetra) : (s.setF i r).xset0 = s.xset0 := by
  unfold State.setF; split <;> rfl
@[simp] theorem State.setF_xset1 (s : State) (i : Reg) (r : Tetra) : (s.setF i r).xset1 = s.xset1 := by
  unfold State.setF; split <;> rfl
@[simp] theorem State.setF_xset2 (s : State) (i : Reg) (r : Tetra) : (s.setF i r).xset2 = s.xset2 := by
  unfold State.setF; split <;> rfl
@[simp] theorem State.setF_regset (s : State) (i : Reg) (r : Tetra) : (s.setF i r).regset = s.regset := by
  unfold State.setF; split <;> rfl
@[simp] theorem State.setF_fflags (s : State) (i : Reg) (r : Tetra) : (s.setF i r).fflags = s.fflags := by
  unfold State.setF; split <;> rfl
@[simp] theorem State.setF_frm (s : State) (i : Reg) (r : Tetra) : (s.setF i r).frm = s.frm := by
  unfold State.setF; split <;> rfl
@[simp] theorem State.setF_cycle (s : State) (i : Reg) (r : Tetra) : (s.setF i r).cycle = s.cycle := by
  unfold State.setF; split <;> rfl
@[simp] theorem State.setF_time (s : State) (i : Reg) (r : Tetra) : (s.setF i r).time = s.time := by
  unfold State.setF; split <;> rfl
@[simp] theorem State.setF_instret (s : State) (i : Reg) (r : Tetra) : (s.setF i r).instret = s.instret := by
  unfold State.setF; split <;> rfl
@[simp] theorem State.setF_mtimecmp (s : State) (i : Reg) (r : Tetra) : (s.setF i r).mtimecmp = s.mtimecmp := by
  unfold State.setF; split <;> rfl
@[simp] theorem State.setF_enabled (s : State) (i : Reg) (r : Tetra) : (s.setF i r).enabled = s.enabled := by
  unfold State.setF; split <;> rfl
@[simp] theorem State.setF_pending (s : State) (i : Reg) (r : Tetra) : (s.setF i r).pending = s.pending := by
  unfold State.setF; split <;> rfl
@[simp] theorem State.setF_mscratch (s : State) (i : Reg) (r : Tetra) : (s.setF i r).mscratch = s.mscratch := by
  unfold State.setF; split <;> rfl
@[simp] theorem State.setF_mepc (s : State) (i : Reg) (r : Tetra) : (s.setF i r).mepc = s.mepc := by
  unfold State.setF; split <;> rfl
@[simp] theorem State.setF_mcause (s : State) (i : Reg) (r : Tetra) : (s.setF i r).mcause = s.mcause := by
  unfold State.setF; split <;> rfl
@[simp] theorem State.setF_mbadaddr (s : State) (i : Reg) (r : Tetra) : (s.setF i r).mbadaddr = s.mbadaddr := by
  unfold State.setF; split <;> rfl
@[simp] theorem State.setF_asid (s : State) (i : Reg) (r : Tetra) : (s.setF i r).asid = s.asid := by
  unfold State.setF; split <;> rfl
@[simp] theorem State.setF_seg (s : State) (i : Reg) (r : Tetra) : (s.setF i r).seg = s.seg := by
  unfold State.setF; split <;> rfl
@[simp] theorem State.setF_pageMap (s : State) (i : Reg) (r : Tetra) : (s.setF i r).pageMap = s.pageMap := by
  unfold State.setF; split <;> rfl
@[simp] theorem State.setF_mresume (s : State) (i : Reg) (r : Tetra) : (s.setF i r).mresume = s.mresume := by
  unfold State.setF; split <;> rfl
@[simp] theorem State.setF_waiting (s : State) (i : Reg) (r : Tetra) : (s.setF i r).waiting = s.waiting := by
  unfold State.setF; split <;> rfl
@[simp] theorem State.setF_mem (s : State) (i : Reg) (r : Tetra) : (s.setF i r).mem = s.mem := by
  unfold State.setF; split <;> rfl
@[simp] theorem State.setF_stored (s : State) (i : Reg) (r : Tetra) : (s.setF i r).stored = s.stored := by
  unfold State.setF; split <;> rfl
@[simp] theorem State.setF_devices (s : State) (i : Reg) (r : Tetra) : (s.setF i r).devices = s.devices := by
  unfold State.setF; split <;> rfl
@[simp] theorem State.setF_ioWrites (s : State) (i : Reg) (r : Tetra) : (s.setF i r).ioWrites = s.ioWrites := by
  unfold State.setF; split <;> rfl
@[simp] theorem State.setF_arrivals (s : State) (i : Reg) (r : Tetra) : (s.setF i r).arrivals = s.arrivals := by
  unfold State.setF; split <;> rfl

end Sys2Proof.Machine
end

