-- ==== Sys2Proof/Laws/Registers.lean ====
section
/-! SUPPORT. What the register operations can do: integer registers, floating-point registers, operand roles. -/

namespace Sys2Proof.Machine

/-! ## States that agree -/

theorem IntegerSame.of_sets {s t : State} (h0 : t.xset0 = s.xset0) (h1 : t.xset1 = s.xset1) (h2 : t.xset2 = s.xset2) :
    IntegerSame s t := by
  intro b i
  cases b <;> simp [State.xval, State.bank, h0, h1, h2]

theorem FloatSame.of_file {s t : State} (h : t.freg = s.freg) : FloatSame s t := by
  intro i
  simp [State.fval, h]

theorem MemorySame.of_fields {s t : State} (h : t.mem = s.mem) (hs : t.stored = s.stored) (hw : t.ioWrites = s.ioWrites) :
    MemorySame s t :=
  ⟨fun a => by simp [State.byteAt, h], hs, hw⟩

/-! ## Integer registers -/

/-- Register 0 of every set reads as zero (10_state.md R22). -/
@[simp] theorem State.xval_zero (s : State) (b : RegSet) : s.xval b 0#5 = 0 := by simp [State.xval]

theorem State.bank_setX (s : State) (b c : RegSet) (i : Reg) (v : Word) (h : i ≠ 0) :
    (s.setX b i v).bank c = if c = b then (s.bank b).set i.toNat v i.isLt else s.bank c := by
  unfold State.setX
  rw [if_neg h]
  cases b <;> cases c <;> rfl

/-- What a register write does to every register of every set. -/
theorem State.xval_setX (s : State) (b c : RegSet) (i j : Reg) (v : Word) :
    (s.setX b i v).xval c j = if i ≠ 0 ∧ c = b ∧ j = i then v else s.xval c j := by
  by_cases hi : i = 0
  · simp [State.setX, hi]
  by_cases hj : j = 0
  · have hn : ¬(i ≠ 0 ∧ c = b ∧ j = i) := fun h => hi (h.2.2.symm.trans hj)
    rw [if_neg hn, hj]
    simp
  have hb := State.bank_setX s b c i v hi
  by_cases hc : c = b ∧ j = i
  · rw [if_pos ⟨hi, hc⟩]
    obtain ⟨rfl, rfl⟩ := hc
    unfold State.xval
    rw [if_neg hj]
    simp [hb]
  · rw [if_neg (fun h : i ≠ 0 ∧ c = b ∧ j = i => hc h.2)]
    unfold State.xval
    rw [if_neg hj, if_neg hj]
    simp only [hb]
    split
    · next hcb =>
      have : i.toNat ≠ j.toNat := fun h => hc ⟨hcb, BitVec.eq_of_toNat_eq h.symm⟩
      simp [hcb, this]
    · rfl

/-- Reading x0 needs no register set (44_machine_mode.md R311). -/
@[simp] theorem readX_zero (role : Role) (s : State) : readX role 0#5 s = .ok 0 := by simp [readX]

/-- A register operand is read from the set its role selects (10_state.md R27). -/
theorem readX_of_set {role : Role} {i : Reg} {s : State} {b : RegSet} (h : s.roleSet role = some b) :
    readX role i s = .ok (s.xval b i) := by
  unfold readX
  split
  · next hi => subst hi; exact congrArg _ (s.xval_zero b).symm
  · simp [h]

/-- Everything a register write can do. -/
theorem writeX_cases {rd : Reg} {v : Word} {s t : State} (h : writeX rd v s = .ok t) :
    (rd = 0 ∧ t = s) ∨ ∃ b, rd ≠ 0 ∧ s.roleSet .rd = some b ∧ t = s.setX b rd v := by
  unfold writeX at h
  split at h
  · next hr => exact .inl ⟨hr, by simpa using h.symm⟩
  · next hr =>
    split at h
    · next b hb => exact .inr ⟨b, hr, hb, by simpa using h.symm⟩
    · cases h

/-- A register write succeeds exactly when the destination can be written. -/
theorem writeX_total {rd : Reg} {v : Word} {s : State} (h : Writable rd s) : ∃ t, writeX rd v s = .ok t := by
  unfold writeX
  rcases h with h | ⟨b, h⟩
  · exact ⟨s, by simp [h]⟩
  · by_cases hr : rd = 0
    · exact ⟨s, by simp [hr]⟩
    · exact ⟨s.setX b rd v, by rw [if_neg hr]; simp [h]⟩

theorem writeX_wrote {rd : Reg} {v : Word} {s t : State} (h : writeX rd v s = .ok t) : WroteX rd v s t := by
  rcases writeX_cases h with ⟨hr, rfl⟩ | ⟨b, hr, hb, rfl⟩
  · exact ⟨fun _ hn => absurd hr hn, fun _ _ _ => rfl⟩
  · refine ⟨fun c _ hc => ?_, fun c i hn => ?_⟩
    · obtain rfl : b = c := Option.some.inj (hb.symm.trans hc)
      rw [State.xval_setX, if_pos ⟨hr, rfl, rfl⟩]
    · rw [State.xval_setX, if_neg]
      rintro ⟨_, rfl, rfl⟩
      exact hn ⟨hr, rfl, hb⟩

/-- A register write changes nothing but the integer registers. -/
theorem writeX_frame {rd : Reg} {v : Word} {s t : State} (h : writeX rd v s = .ok t) :
    t.pc = s.pc ∧ t.freg = s.freg ∧ t.fflags = s.fflags ∧ t.mem = s.mem ∧ t.draws = s.draws ∧ ControlSame s t ∧ MemorySame s t := by
  rcases writeX_cases h with ⟨_, rfl⟩ | ⟨b, _, _, rfl⟩
  · exact ⟨rfl, rfl, rfl, rfl, rfl, ⟨⟨rfl, rfl, rfl, rfl, rfl⟩, ⟨rfl, rfl, rfl, rfl, rfl, rfl, rfl, rfl, rfl⟩,
      ⟨rfl, rfl, rfl, rfl, rfl, rfl, rfl, rfl, rfl⟩, rfl⟩, ⟨fun _ => rfl, rfl, rfl⟩⟩
  · refine ⟨by simp, by simp, by simp, by simp, by simp, ⟨?_, ?_, ?_, by simp⟩, MemorySame.of_fields (by simp) (by simp) (by simp)⟩
    · constructor <;> simp
    · constructor <;> simp
    · constructor <;> simp

/-- Everything `finishX` can do when the destination can be written. -/
theorem finishX_next {rd : Reg} {v : Word} {s : State} (h : Writable rd s) :
    ∃ t, finishX rd v s = .next t ∧ t.pc = s.pc + 4 ∧ WroteX rd v s t ∧ FloatSame s t ∧ t.fflags = s.fflags ∧
      ControlSame s t ∧ MemorySame s t := by
  obtain ⟨u, hu⟩ := writeX_total (v := v) h
  obtain ⟨hpc, hf, hfl, hm, -, hc, hms⟩ := writeX_frame hu
  obtain ⟨w1, w2⟩ := writeX_wrote hu
  have hx : ∀ c i, u.advance.xval c i = u.xval c i := fun c i => by cases c <;> rfl
  refine ⟨u.advance, by simp [finishX, hu, orFault], by simp [hpc], ⟨fun b hn hb => (hx b rd).trans (w1 b hn hb),
    fun c i hn => (hx c i).trans (w2 c i hn)⟩, FloatSame.of_file (by simp [hf]), by simp [hfl], ?_, ?_⟩
  · exact ⟨⟨hc.1.1, hc.1.2, hc.1.3, hc.1.4, hc.1.5⟩,
      ⟨hc.2.1, hc.2.2, hc.2.3, hc.2.4, hc.2.5, hc.2.6, hc.2.7, hc.2.8, hc.2.9⟩,
      ⟨hc.3.1, hc.3.2, hc.3.3, hc.3.4, hc.3.5, hc.3.6, hc.3.7, hc.3.8, hc.3.9⟩, hc.4⟩
  · exact ⟨hms.1, hms.2, hms.3⟩

/-! ## Floating-point registers -/

/-- f0 reads as positive zero (10_state.md R31). -/
@[simp] theorem State.fval_zero (s : State) : s.fval 0#5 = 0 := by simp [State.fval]

theorem State.fval_setF_of_ne (s : State) (i j : Reg) (r : Tetra) (h : i = 0 ∨ j ≠ i) : (s.setF i r).fval j = s.fval j := by
  unfold State.setF
  split
  · rfl
  · next hi =>
    have hij : j ≠ i := h.resolve_left hi
    have : i.toNat ≠ j.toNat := fun e => hij (BitVec.eq_of_toNat_eq e.symm)
    unfold State.fval
    split
    · rfl
    · simp [this]

theorem joinBits_low32 (hi lo : BitVec 32) : (joinBits 64 hi lo).extractLsb' 0 32 = lo := by
  unfold joinBits
  ext k hk
  simp only [BitVec.getElem_extractLsb', BitVec.getLsbD_or, BitVec.getLsbD_shiftLeft, BitVec.getLsbD_setWidth]
  have : k < 64 := by omega
  simp [hk, this, BitVec.getLsbD_eq_getElem]

/-- What a floating-point register write leaves in bits 31..0 (10_state.md R32). -/
theorem State.fsingle_setF (s : State) (i : Reg) (r : Tetra) (h : i ≠ 0) : (s.setF i r).fsingle i = r := by
  unfold State.fsingle State.fval State.setF
  rw [if_neg h, if_neg h]
  simp [joinBits_low32]

theorem State.setF_wrote (s : State) (i : Reg) (r : Tetra) : WroteF i r s (s.setF i r) :=
  ⟨fun h => s.fsingle_setF i r h, fun j h => s.fval_setF_of_ne i j r h⟩

/-- Everything `finishF` does. -/
theorem finishF_next (frd : Reg) (r : Tetra) (fl : BitVec 5) (s : State) :
    ∃ t, finishF frd r fl s = .next t ∧ t.pc = s.pc + 4 ∧ WroteF frd r s t ∧ IntegerSame s t ∧ t.fflags = s.fflags ||| fl ∧
      ControlSame s t ∧ MemorySame s t := by
  refine ⟨_, rfl, by simp, ⟨(s.setF_wrote frd r).1, (s.setF_wrote frd r).2⟩, IntegerSame.of_sets (by simp) (by simp) (by simp),
    by simp, ⟨?_, ?_, ?_, by simp⟩, MemorySame.of_fields (by simp) (by simp) (by simp)⟩
  · constructor <;> simp
  · constructor <;> simp
  · constructor <;> simp

end Sys2Proof.Machine
end

