-- ==== Sys2Proof/Laws/Memory.lean ====
section
/-! SUPPORT. What the memory operations and address translation can do. -/

namespace Sys2Proof.Machine

/-! ## Single bytes -/

/-- Which addresses are windows and which are writable depends on the platform alone, not on what was written. -/
theorem isDevice_congr {s t : State} (h : t.devices = s.devices) (a : Nat) : t.isDevice a = s.isDevice a := by
  unfold State.isDevice; rw [h]

theorem isWritable_congr {s t : State} (h : t.devices = s.devices) (a : Nat) : t.isWritable a = s.isWritable a := by
  unfold State.isWritable; rw [isDevice_congr h]

@[simp] theorem writeByte_isDevice (a k : Nat) (b : Byte) (s : State) : (writeByte a b s).isDevice k = s.isDevice k :=
  isDevice_congr rfl k

@[simp] theorem writeByte_isWritable (a k : Nat) (b : Byte) (s : State) : (writeByte a b s).isWritable k = s.isWritable k :=
  isWritable_congr rfl k

/-- A window's byte is not written by a store. -/
theorem isDevice_of_isWritable {s : State} {a : Nat} (h : s.isWritable a = true) : s.isDevice a = false := by
  unfold State.isWritable at h
  cases hd : s.isDevice a <;> simp [hd] at h ⊢

/-- Reading one byte after writing one (20_memory.md R100): the latest write, where memory can be written. -/
theorem byteAt_writeByte (a k : Nat) (b : Byte) (s : State) :
    (writeByte a b s).byteAt k = if k = a ∧ s.isWritable a = true then b else s.byteAt k := by
  unfold State.byteAt
  rw [writeByte_mem]
  by_cases hd : s.isWritable a = true
  · simp only [hd, if_true, cellAt_cellPut, and_true]
    by_cases hk : k = a <;> simp [hk]
  · simp [hd]

/-! ## Several bytes -/

theorem writeBytes_cons (c : Host.Cell) (rest : List Host.Cell) (s : State) :
    writeBytes (c :: rest) s = writeBytes rest (writeByte c.1 c.2 s) := rfl

/-- Writing bytes touches memory and the set of stored addresses alone. -/
theorem writeBytes_frame (l : List Host.Cell) (s : State) : ∃ m st, writeBytes l s = { s with mem := m, stored := st } := by
  induction l generalizing s with
  | nil => exact ⟨s.mem, s.stored, rfl⟩
  | cons c rest ih =>
    obtain ⟨m, st, h⟩ := ih (writeByte c.1 c.2 s)
    exact ⟨m, st, by rw [writeBytes_cons, h]; rfl⟩

/-- What a write does to memory does not depend on the recorded events or the draw counter. -/
theorem writeBytes_with (l : List Host.Cell) (s : State) (io : List IoWrite) (d : Nat) :
    writeBytes l { s with ioWrites := io, draws := d } = { writeBytes l s with ioWrites := io, draws := d } := by
  induction l generalizing s with
  | nil => rfl
  | cons c rest ih => exact ih (writeByte c.1 c.2 s)

theorem writeBytes_append (l k : List Host.Cell) (s : State) : writeBytes (l ++ k) s = writeBytes k (writeBytes l s) := by
  induction l generalizing s with
  | nil => rfl
  | cons c rest ih => exact ih (writeByte c.1 c.2 s)

@[simp] theorem writeBytes_devices (l : List Host.Cell) (s : State) : (writeBytes l s).devices = s.devices := by
  obtain ⟨_, _, h⟩ := writeBytes_frame l s
  rw [h]

/-- A byte that is not among those written reads as before. -/
theorem byteAt_writeBytes_of_not_mem (l : List Host.Cell) (s : State) (k : Nat) (h : k ∉ l.map Prod.fst) :
    (writeBytes l s).byteAt k = s.byteAt k := by
  induction l generalizing s with
  | nil => rfl
  | cons c rest ih =>
    simp only [List.map_cons, List.mem_cons, not_or] at h
    rw [writeBytes_cons, ih _ h.2, byteAt_writeByte, if_neg (fun e => h.1 e.1)]

/-- A byte that no store may change reads as before. -/
theorem byteAt_writeBytes_of_not_writable (l : List Host.Cell) (s : State) (k : Nat) (h : s.isWritable k = false) :
    (writeBytes l s).byteAt k = s.byteAt k := by
  induction l generalizing s with
  | nil => rfl
  | cons c rest ih =>
    rw [writeBytes_cons, ih _ (by simpa using h), byteAt_writeByte, if_neg]
    rintro ⟨rfl, hw⟩
    simp [h] at hw

/-- Bytes written to distinct addresses: each writable one holds its byte, each other one is as before. -/
theorem byteAt_writeBytes_of_mem (l : List Host.Cell) (s : State) (hn : (l.map Prod.fst).Nodup) (c : Host.Cell)
    (hc : c ∈ l) : (writeBytes l s).byteAt c.1 = if s.isWritable c.1 then c.2 else s.byteAt c.1 := by
  induction l generalizing s with
  | nil => cases hc
  | cons d rest ih =>
    rw [List.map_cons, List.nodup_cons] at hn
    rw [writeBytes_cons]
    rcases List.mem_cons.1 hc with rfl | hc
    · rw [byteAt_writeBytes_of_not_mem _ _ _ hn.1, byteAt_writeByte]
      simp
    · have hne : c.1 ≠ d.1 := fun e => hn.1 (e ▸ List.mem_map_of_mem hc)
      rw [ih _ hn.2 hc, writeByte_isWritable, byteAt_writeByte, if_neg (c := c.1 = d.1 ∧ _) (fun e => hne e.1)]

/-- The addresses written count as stored to, and no other does (20_memory.md R103). -/
theorem mem_stored_writeBytes (l : List Host.Cell) (s : State) (a : Nat) :
    a ∈ (writeBytes l s).stored ↔ a ∈ s.stored ∨ a ∈ l.map Prod.fst := by
  induction l generalizing s with
  | nil => simp [writeBytes]
  | cons c rest ih =>
    rw [writeBytes_cons, ih, writeByte_stored, mem_addAddress]
    simp only [List.map_cons, List.mem_cons]
    tauto

/-! ## Bus cycles (20_memory.md R75) -/

/-- A list in some order holds the same entries. -/
theorem inOrder_perm {α : Type} (w : Nat) (l : List α) : (inOrder w l).Perm l := by
  induction l generalizing w with
  | nil => exact List.Perm.refl _
  | cons x rest ih =>
    have hlen := (ih (w / (rest.length + 1))).length_eq
    refine (List.perm_insertIdx _ _ ?_).trans ((ih _).cons x)
    rw [hlen]
    exact Nat.le_of_lt_succ (Nat.mod_lt _ (Nat.succ_pos _))

/-- The event of a cycle depends on the windows alone. -/
theorem ioEvent_congr {s t : State} (h : t.devices = s.devices) (cells : List Host.Cell) : ioEvent cells t = ioEvent cells s := by
  unfold ioEvent
  simp only [isDevice_congr h]

/-- A cycle that puts no byte in a window is no event. -/
theorem ioEvent_none {cells : List Host.Cell} {s : State} (h : ∀ c ∈ cells, s.isDevice c.1 = false) : ioEvent cells s = [] := by
  unfold ioEvent
  rw [List.filter_eq_nil_iff.2 (fun c hc => by simp [h c hc])]

/-- A cycle all of whose bytes lie in windows is one event of them all. -/
theorem ioEvent_all {cells : List Host.Cell} {s : State} (h : ∀ c ∈ cells, s.isDevice c.1 = true) (hne : cells ≠ []) :
    ioEvent cells s = [⟨cells⟩] := by
  unfold ioEvent
  rw [List.filter_eq_self.2 (fun c hc => h c hc)]
  cases cells with
  | nil => exact absurd rfl hne
  | cons => rfl

/-- Cycles of single bytes write the bytes in turn, and each that meets a window is an event of its own. -/
theorem busWrites_singles (l : List Host.Cell) (s : State) :
    busWrites (l.map fun c => [c]) s =
      { writeBytes l s with ioWrites := (l.reverse.flatMap fun c => ioEvent [c] s) ++ s.ioWrites } := by
  induction l generalizing s with
  | nil => rfl
  | cons c rest ih =>
    have hb : busWrite [c] s = { writeByte c.1 c.2 s with ioWrites := ioEvent [c] s ++ s.ioWrites, draws := s.draws } := rfl
    rw [List.map_cons, show busWrites ([c] :: rest.map fun c => [c]) s = busWrites (rest.map fun c => [c]) (busWrite [c] s) from rfl,
      ih, hb, writeBytes_with, writeBytes_cons]
    obtain ⟨m, st, hf⟩ := writeBytes_frame rest (writeByte c.1 c.2 s)
    rw [hf]
    simp only [List.reverse_cons, List.flatMap_append, List.flatMap_cons, List.flatMap_nil, List.append_nil, List.append_assoc]
    have hc : ∀ d, ioEvent [d] { writeByte c.1 c.2 s with ioWrites := ioEvent [c] s ++ s.ioWrites, draws := s.draws } =
        ioEvent [d] s := fun d => ioEvent_congr rfl [d]
    simp only [hc]
    rfl

/-- Everything the bytes of a store can do: they are written in some order, and the events and the draw counter are all that
differs beside. Outside the I/O windows there is no event. -/
theorem storeCells_cases (va : VAddr) (cells : List Host.Cell) (s : State) :
    ∃ l io d, l.Perm cells ∧ storeCells va cells s = { writeBytes l s with ioWrites := io, draws := d } ∧
      ((∀ c ∈ cells, s.isDevice c.1 = false) → io = s.ioWrites) := by
  unfold storeCells
  split
  · obtain ⟨m, st, hf⟩ := writeBytes_frame cells s
    refine ⟨cells, ioEvent cells s ++ s.ioWrites, s.draws, List.Perm.refl _, ?_, fun h => ?_⟩
    · rw [busWrite, hf]
    · rw [ioEvent_none h, List.nil_append]
  · have hp := inOrder_perm s.drawn.toNat cells
    refine ⟨inOrder s.drawn.toNat cells,
      ((inOrder s.drawn.toNat cells).reverse.flatMap fun c => ioEvent [c] s.afterDraw) ++ s.ioWrites, s.draws + 1, hp, ?_,
      fun h => ?_⟩
    · rw [busWrites_singles, show s.afterDraw = { s with ioWrites := s.ioWrites, draws := s.draws + 1 } from rfl, writeBytes_with]
    · rw [List.flatMap_eq_nil_iff.2, List.nil_append]
      intro c hc
      refine ioEvent_none (fun e he => ?_)
      rw [List.mem_singleton.1 he]
      exact h c (hp.mem_iff.1 (List.mem_reverse.1 hc))

/-- Aligned bytes in I/O windows are one event (R75, R79). -/
theorem storeCells_single {va : VAddr} {cells : List Host.Cell} {s : State} (h : singleCycle va cells.length = true) :
    (storeCells va cells s).ioWrites = ioEvent cells s ++ s.ioWrites := by
  rw [storeCells, if_pos h]
  rfl

/-- Unaligned bytes are events of their own, in some order (R75, R79). -/
theorem storeCells_split {va : VAddr} {cells : List Host.Cell} {s : State} (h : singleCycle va cells.length = false)
    (hd : ∀ c ∈ cells, s.isDevice c.1 = true) :
    ∃ events, events.Perm (cells.map fun c => IoWrite.mk [c]) ∧ (storeCells va cells s).ioWrites = events ++ s.ioWrites := by
  have hp := inOrder_perm s.drawn.toNat cells
  refine ⟨(inOrder s.drawn.toNat cells).reverse.map fun c => ⟨[c]⟩, ((List.reverse_perm _).trans hp).map _, ?_⟩
  rw [storeCells, if_neg (by simp [h]), busWrites_singles]
  refine congrArg (· ++ s.ioWrites) ?_
  rw [List.map_eq_flatMap]
  refine List.flatMap_congr fun c hc => ?_
  refine ioEvent_all (fun e he => ?_) (by simp)
  rw [List.mem_singleton.1 he]
  exact hd c (hp.mem_iff.1 (List.mem_reverse.1 hc))

/-- A byte outside those stored, or one that no store may change, reads as before. -/
theorem byteAt_storeCells_of_not_mem (va : VAddr) (cells : List Host.Cell) (s : State) (k : Nat)
    (h : k ∉ cells.map Prod.fst ∨ s.isWritable k = false) : (storeCells va cells s).byteAt k = s.byteAt k := by
  obtain ⟨l, io, d, hp, he, -⟩ := storeCells_cases va cells s
  rw [he, show State.byteAt { writeBytes l s with ioWrites := io, draws := d } k = (writeBytes l s).byteAt k from rfl]
  rcases h with h | h
  · exact byteAt_writeBytes_of_not_mem _ _ _ (fun hk => h ((hp.map _).mem_iff.1 hk))
  · exact byteAt_writeBytes_of_not_writable _ _ _ h

/-- Each stored byte at a writable address is there afterwards, whatever the order of the bus cycles. -/
theorem byteAt_storeCells_of_mem {va : VAddr} {cells : List Host.Cell} {s : State} (hn : (cells.map Prod.fst).Nodup)
    {c : Host.Cell} (hc : c ∈ cells) :
    (storeCells va cells s).byteAt c.1 = if s.isWritable c.1 then c.2 else s.byteAt c.1 := by
  obtain ⟨l, io, d, hp, he, -⟩ := storeCells_cases va cells s
  rw [he, show State.byteAt { writeBytes l s with ioWrites := io, draws := d } c.1 = (writeBytes l s).byteAt c.1 from rfl]
  exact byteAt_writeBytes_of_mem _ _ ((hp.map _).nodup_iff.2 hn) _ (hp.mem_iff.2 hc)

/-- Every byte of memory after a store: the stored byte at its writable address, the old one elsewhere. -/
theorem byteAt_storeCells {va : VAddr} {cells : List Host.Cell} {s : State} (hn : (cells.map Prod.fst).Nodup) (k : Nat) :
    (storeCells va cells s).byteAt k =
      if s.isWritable k then ((cells.find? fun c => c.1 == k).map Prod.snd).getD (s.byteAt k) else s.byteAt k := by
  cases hf : cells.find? fun c => c.1 == k with
  | none =>
    rw [byteAt_storeCells_of_not_mem _ _ _ _ (.inl fun hk => ?_)]
    · split <;> rfl
    · obtain ⟨c, hc, rfl⟩ := List.mem_map.1 hk
      simpa using List.find?_eq_none.1 hf c hc
  | some c =>
    obtain rfl : c.1 = k := by simpa using List.find?_some hf
    rw [byteAt_storeCells_of_mem hn (List.mem_of_find?_eq_some hf)]
    rfl

theorem mem_stored_storeCells (va : VAddr) (cells : List Host.Cell) (s : State) (a : Nat) :
    a ∈ (storeCells va cells s).stored ↔ a ∈ s.stored ∨ a ∈ cells.map Prod.fst := by
  obtain ⟨l, io, d, hp, he, -⟩ := storeCells_cases va cells s
  rw [he, show State.stored { writeBytes l s with ioWrites := io, draws := d } = (writeBytes l s).stored from rfl,
    mem_stored_writeBytes, (hp.map _).mem_iff]

/-- A read changes nothing but the draw counter. -/
theorem readBytes_frame (l : List Nat) (s : State) : ∃ n, (readBytes l s).2 = { s with draws := n } := by
  induction l generalizing s with
  | nil => exact ⟨s.draws, rfl⟩
  | cons a rest ih =>
    obtain ⟨n, h⟩ := ih (readByte a s).2
    refine ⟨n, ?_⟩
    rw [show (readBytes (a :: rest) s).2 = (readBytes rest (readByte a s).2).2 from rfl, h]
    unfold readByte
    split <;> rfl

theorem readBytes_length (l : List Nat) (s : State) : (readBytes l s).1.length = l.length := by
  induction l generalizing s with
  | nil => rfl
  | cons a rest ih => simp [readBytes, ih]

/-- Outside the I/O windows a read delivers memory's bytes and changes nothing. -/
theorem readBytes_of_memory (l : List Nat) (s : State) (h : ∀ a ∈ l, s.isDevice a = false) :
    readBytes l s = (l.map s.byteAt, s) := by
  induction l with
  | nil => rfl
  | cons a rest ih =>
    have ha := h a (by simp)
    simp [readBytes, readByte, ha, ih (fun b hb => h b (List.mem_cons_of_mem _ hb))]

/-! ## Translation -/

/-- Translation depends on the mode, the segment registers, the address space and the page map alone. -/
theorem translate_congr {s t : State} (va : VAddr) (k : Access) (hm : t.mode = s.mode) (hs : t.seg = s.seg)
    (ha : t.asid = s.asid) (hp : t.pageMap = s.pageMap) : translate va k t = translate va k s := by
  have hpage : ∀ la, pageTranslate la t = pageTranslate la s := fun la => by
    unfold pageTranslate State.mapAt; rw [ha, hp]
  have hseg : ∀ n, t.segAt n = s.segAt n := fun n => by unfold State.segAt; rw [hs]
  unfold translate
  rw [hm]
  simp only [hpage, hseg]

theorem translateRange_congr {s t : State} (va : VAddr) (n : Nat) (k : Access) (hm : t.mode = s.mode) (hs : t.seg = s.seg)
    (ha : t.asid = s.asid) (hp : t.pageMap = s.pageMap) : translateRange va n k t = translateRange va n k s := by
  induction n generalizing va with
  | zero => rfl
  | succ n ih => simp only [translateRange, translate_congr va k hm hs ha hp, ih]

/-- One address more of a range. -/
theorem translateRange_succ {va : VAddr} {n : Nat} {k : Access} {s : State} {pas : List Nat}
    (h : translateRange va (n + 1) k s = .ok pas) :
    ∃ pa rest, translate va k s = .ok pa ∧ translateRange (va + 1) n k s = .ok rest ∧ pas = pa.toNat :: rest := by
  unfold translateRange at h
  split at h
  · next pa rest h1 h2 => exact ⟨pa, rest, h1, h2, by simpa using h.symm⟩
  · cases h
  · cases h

theorem translateRange_length {va : VAddr} {n : Nat} {k : Access} {s : State} {pas : List Nat}
    (h : translateRange va n k s = .ok pas) : pas.length = n := by
  induction n generalizing va pas with
  | zero => simp [translateRange] at h; subst h; simp
  | succ n ih =>
    obtain ⟨pa, rest, -, h2, rfl⟩ := translateRange_succ h
    simp [ih h2]

theorem joinBits_mod16 (e : BitVec mapEntryBits) (lo : BitVec 16) : (joinBits 44 e lo).extractLsb' 0 16 = lo := by
  unfold joinBits
  ext k hk
  have : k < 44 := by omega
  simp [hk, this, BitVec.getLsbD_eq_getElem]

/-- Paging passes the low 16 bits unchanged (20_memory.md R90). -/
theorem pageTranslate_low16 {la pa : LAddr} {s : State} (h : pageTranslate la s = .ok pa) :
    pa.extractLsb' 0 16 = la.extractLsb' 0 16 := by
  unfold pageTranslate at h
  split at h
  · injection h with h; rw [h]
  · split at h
    · cases h
    · injection h with h; rw [← h, joinBits_mod16]

/-- Segmentation passes the low 16 bits unchanged (20_memory.md R90). -/
theorem linearAddress_low16 (va : VAddr) (seg : BitVec 32) :
    (linearAddress va seg).extractLsb' 0 16 = va.extractLsb' 0 16 := by
  apply BitVec.eq_of_toNat_eq
  simp only [linearAddress, BitVec.extractLsb'_toNat, BitVec.toNat_add, BitVec.toNat_setWidth, BitVec.toNat_shiftLeft]
  generalize (seg.toNat >>> 4 % 2 ^ 28 % 2 ^ 44) = b
  simp only [Nat.shiftRight_zero, Nat.shiftLeft_eq]
  omega

/-- The low 16 bits of an address pass through translation unchanged (20_memory.md R90). -/
theorem translate_low16 {va : VAddr} {k : Access} {s : State} {pa : LAddr} (h : translate va k s = .ok pa) :
    pa.extractLsb' 0 16 = va.extractLsb' 0 16 := by
  have hw : (va.setWidth 44).extractLsb' 0 16 = va.extractLsb' 0 16 := by
    ext i hi
    have : i < 44 := by omega
    simp [this]
  unfold translate at h
  split at h
  · injection h with h; rw [← h, hw]
  · split at h
    · rw [pageTranslate_low16 h, hw]
    · split at h
      · cases h
      · split at h
        · rw [pageTranslate_low16 h, linearAddress_low16]
        · cases h

theorem translate_mod {va : VAddr} {k : Access} {s : State} {pa : LAddr} (h : translate va k s = .ok pa) :
    pa.toNat % 65536 = va.toNat % 65536 := by
  have := congrArg BitVec.toNat (translate_low16 h)
  simpa [BitVec.extractLsb'_toNat] using this

/-- Every physical address of an access lies in the 44-bit space. -/
theorem translateRange_lt {va : VAddr} {n : Nat} {k : Access} {s : State} {pas : List Nat}
    (h : translateRange va n k s = .ok pas) : ∀ a ∈ pas, a < 2 ^ 44 := by
  induction n generalizing va pas with
  | zero => simp [translateRange] at h; subst h; simp
  | succ n ih =>
    obtain ⟨pa, rest, -, h2, rfl⟩ := translateRange_succ h
    intro a ha
    rcases List.mem_cons.1 ha with rfl | ha
    · exact pa.isLt
    · exact ih h2 a ha

theorem translateRange_mod {va : VAddr} {n : Nat} {k : Access} {s : State} {pas : List Nat}
    (h : translateRange va n k s = .ok pas) : ∀ a ∈ pas, ∃ i < n, a % 65536 = (va.toNat + i) % 65536 := by
  induction n generalizing va pas with
  | zero => simp [translateRange] at h; subst h; simp
  | succ n ih =>
    obtain ⟨pa, rest, h1, h2, rfl⟩ := translateRange_succ h
    intro a ha
    rcases List.mem_cons.1 ha with rfl | ha
    · exact ⟨0, by omega, by simpa using translate_mod h1⟩
    · obtain ⟨i, hi, e⟩ := ih h2 a ha
      refine ⟨i + 1, by omega, ?_⟩
      rw [e, BitVec.toNat_add]
      simp
      omega

/-- The physical addresses of an access of at most 65536 bytes are distinct. -/
theorem translateRange_nodup {va : VAddr} {n : Nat} {k : Access} {s : State} {pas : List Nat} (hn : n ≤ 65536)
    (h : translateRange va n k s = .ok pas) : pas.Nodup := by
  induction n generalizing va pas with
  | zero => simp [translateRange] at h; subst h; simp
  | succ n ih =>
    obtain ⟨pa, rest, h1, h2, rfl⟩ := translateRange_succ h
    refine List.nodup_cons.2 ⟨fun hc => ?_, ih (by omega) h2⟩
    obtain ⟨i, hi, e⟩ := translateRange_mod h2 _ hc
    have hm := translate_mod h1
    rw [BitVec.toNat_add] at e
    simp at e
    omega

/-- Machine mode is a flat space (20_memory.md R85). -/
theorem translate_machine {s : State} (h : s.mode = .machine) (va : VAddr) (k : Access) :
    translate va k s = .ok (va.setWidth 44) := by
  simp [translate, h]

/-! ## Whole accesses -/

/-- Everything a read can do: bytes of the translated addresses; no state but the draw counter changes. -/
theorem memRead_cases {va : VAddr} {n : Nat} {s t : State} {bytes : List Byte} (h : memRead va n s = .ok (bytes, t)) :
    ∃ pas, translateRange va n .load s = .ok pas ∧ bytes = (readBytes pas s).1 ∧ ∃ d, t = { s with draws := d } := by
  unfold memRead at h
  split at h
  · next pas hp =>
    injection h with h
    obtain ⟨d, hd⟩ := readBytes_frame pas s
    refine ⟨pas, hp, (congrArg Prod.fst h).symm, d, ?_⟩
    rw [← hd, h]
  · cases h

/-- Everything a write can do: the bytes to the translated addresses. -/
theorem memWrite_cases {va : VAddr} {bytes : List Byte} {s t : State} (h : memWrite va bytes s = .ok t) :
    ∃ pas, translateRange va bytes.length .store s = .ok pas ∧ t = storeCells va (pas.zip bytes) s := by
  unfold memWrite at h
  split at h
  · next pas hp => injection h with h; exact ⟨pas, hp, h.symm⟩
  · cases h

/-- Everything a fetch can do. -/
theorem fetchBytes_cases {s t : State} {bytes : List Byte} (h : fetchBytes s = .ok (bytes, t)) :
    s.pc.extractLsb' 0 2 = 0 ∧ ∃ pas, translateRange (s.pc.setWidth 32) 4 .fetch s = .ok pas ∧
      (∀ a ∈ pas, a ∉ s.stored) ∧ bytes = (readBytes pas s).1 ∧ ∃ d, t = { s with draws := d } := by
  unfold fetchBytes at h
  split at h
  · cases h
  · next hpc =>
    split at h
    · cases h
    · next pas hp =>
      split at h
      · cases h
      · next hs =>
        injection h with h
        obtain ⟨d, hd⟩ := readBytes_frame pas s
        refine ⟨by simpa using hpc, pas, hp, ?_, (congrArg Prod.fst h).symm, d, ?_⟩
        · simpa [ifetchCoherent] using hs
        · rw [← hd, h]

/-! ## Canonical form -/

theorem memory_wf_writeByte {a : Nat} {b : Byte} {s : State} (h : Memory.wf s.mem = true) :
    Memory.wf (writeByte a b s).mem = true := by
  rw [writeByte_mem]
  split
  · exact keysRising_cellPut h
  · exact h

/-- Memory keeps its canonical form through a write of any bytes. -/
theorem memory_wf_writeBytes {l : List Host.Cell} {s : State} (h : Memory.wf s.mem = true) :
    Memory.wf (writeBytes l s).mem = true := by
  induction l generalizing s with
  | nil => exact h
  | cons c rest ih => exact ih (memory_wf_writeByte h)

/-- Memory keeps its canonical form through a store. -/
theorem memory_wf_storeCells {va : VAddr} {cells : List Host.Cell} {s : State} (h : Memory.wf s.mem = true) :
    Memory.wf (storeCells va cells s).mem = true := by
  obtain ⟨l, io, d, -, he, -⟩ := storeCells_cases va cells s
  rw [he]
  exact memory_wf_writeBytes h

theorem memory_wf_loadBytes {l : List (Nat × Byte)} {s : State} (h : Memory.wf s.mem = true) :
    Memory.wf (loadBytes l s).mem = true := by
  induction l generalizing s with
  | nil => exact h
  | cons c rest ih => exact ih (keysRising_cellPut h)

theorem mem_lt_writeBytes {l : List Host.Cell} {s : State} (h : ∀ c ∈ s.mem, c.1 < 2 ^ 44) (hl : ∀ c ∈ l, c.1 < 2 ^ 44) :
    ∀ c ∈ (writeBytes l s).mem, c.1 < 2 ^ 44 := by
  induction l generalizing s with
  | nil => exact h
  | cons d rest ih =>
    refine ih ?_ (fun c hc => hl c (List.mem_cons_of_mem _ hc))
    intro c hc
    rw [writeByte_mem] at hc
    split at hc
    · rcases mem_cellPut hc with rfl | hc
      · exact hl d (by simp)
      · exact h c hc
    · exact h c hc

theorem mem_lt_storeCells {va : VAddr} {cells : List Host.Cell} {s : State} (h : ∀ c ∈ s.mem, c.1 < 2 ^ 44)
    (hl : ∀ c ∈ cells, c.1 < 2 ^ 44) : ∀ c ∈ (storeCells va cells s).mem, c.1 < 2 ^ 44 := by
  obtain ⟨l, io, d, hp, he, -⟩ := storeCells_cases va cells s
  rw [he]
  exact mem_lt_writeBytes h (fun c hc => hl c (hp.mem_iff.1 hc))

theorem stored_rising_writeBytes {l : List Host.Cell} {s : State} (h : addressesRising s.stored = true) :
    addressesRising (writeBytes l s).stored = true := by
  induction l generalizing s with
  | nil => exact h
  | cons c rest ih => exact ih (addressesRising_addAddress h)

theorem stored_rising_storeCells {va : VAddr} {cells : List Host.Cell} {s : State} (h : addressesRising s.stored = true) :
    addressesRising (storeCells va cells s).stored = true := by
  obtain ⟨l, io, d, -, he, -⟩ := storeCells_cases va cells s
  rw [he]
  exact stored_rising_writeBytes h

/-- The page map keeps its canonical form (10_state.md R54). -/
theorem pageMap_wf_setMap {s : State} (h : PageMap.wf s.pageMap = true) (a : BitVec 6) (v : BitVec mapIndexBits) (e : BitVec mapEntryBits) :
    PageMap.wf (s.setMap a v e).pageMap = true := by
  unfold PageMap.wf at h ⊢
  simp only [Bool.and_eq_true, List.all_eq_true, State.setMap_pageMap] at h ⊢
  split
  · exact ⟨keysRising_cellDrop h.1, fun c hc => h.2 c (mem_cellDrop hc)⟩
  · next he =>
    refine ⟨keysRising_cellPut h.1, fun c hc => ?_⟩
    rcases mem_cellPut hc with rfl | hc
    · simpa using he
    · exact h.2 c hc

theorem mapKey_lt (a : BitVec 6) (v : BitVec mapIndexBits) : mapKey a v < 64 * 2 ^ mapIndexBits := by
  have := a.isLt; have := v.isLt
  unfold mapKey
  simp only [mapIndexBits] at *
  omega

theorem mapKey_inj {a a' : BitVec 6} {v v' : BitVec mapIndexBits} : mapKey a v = mapKey a' v' ↔ a = a' ∧ v = v' := by
  have := v.isLt; have := v'.isLt
  unfold mapKey
  constructor
  · intro h
    simp only [mapIndexBits] at *
    exact ⟨BitVec.eq_of_toNat_eq (by omega), BitVec.eq_of_toNat_eq (by omega)⟩
  · rintro ⟨rfl, rfl⟩; rfl

/-- Reading a map entry after writing one, in a page map in canonical form. -/
theorem mapAt_setMap {s : State} (h : PageMap.wf s.pageMap = true) (a a' : BitVec 6) (v v' : BitVec mapIndexBits) (e : BitVec mapEntryBits) :
    (s.setMap a v e).mapAt a' v' = if a' = a ∧ v' = v then e else s.mapAt a' v' := by
  have hk : keysRising s.pageMap = true := by
    unfold PageMap.wf at h
    exact (Bool.and_eq_true _ _ ▸ h : _ ∧ _).1
  unfold State.mapAt
  simp only [State.setMap_pageMap]
  split
  · next he =>
    rw [cellAt_cellDrop _ _ hk, he]
    by_cases hc : a' = a ∧ v' = v
    · rw [if_pos (mapKey_inj.2 hc), if_pos hc]; rfl
    · rw [if_neg (fun e => hc (mapKey_inj.1 e)), if_neg hc]
  · rw [cellAt_cellPut]
    by_cases hc : a' = a ∧ v' = v
    · rw [if_pos (mapKey_inj.2 hc), if_pos hc]; rfl
    · rw [if_neg (fun e => hc (mapKey_inj.1 e)), if_neg hc]

/-- The machine after reset holds its memory in canonical form. -/
theorem reset_memory_wf : Memory.wf State.reset.mem = true := by decide

end Sys2Proof.Machine
end

