-- ==== Sys2Proof/Laws/Traps.lean ====
section
/-! SUPPORT. What taking a trap, returning from one and waking up can do. -/

namespace Sys2Proof.Machine

/-- Continuing with a value: everything `orFault` can do when it answers a next state. -/
theorem orFault_next {α : Type} {r : Except Fault α} {k : α → Result} {t : State} (h : orFault r k = .next t) :
    ∃ a, r = .ok a ∧ k a = .next t := by
  unfold orFault at h
  split at h
  · next a => exact ⟨a, rfl, h⟩
  · cases h

@[simp] theorem orFault_ok {α : Type} (a : α) (k : α → Result) : orFault (.ok a) k = k a := rfl
@[simp] theorem orFault_error {α : Type} (f : Fault) (k : α → Result) : orFault (.error f) k = .fault f := rfl

/-! ## The register-set stack -/

/-- Everything a push can do (10_state.md R26): the entries move up, the select bits stay. -/
theorem pushRegset_cases {r p : BitVec 16} (h : pushRegset r = .ok p) :
    (currentSet r).toNat < 2 ∧ currentSet p = currentSet r + 1 ∧ previousSet p = currentSet r ∧
      p.extractLsb' 0 4 = r.extractLsb' 0 4 ∧ p.extractLsb' 6 10 = r.extractLsb' 4 10 := by
  unfold pushRegset at h
  split at h
  · next hc =>
    injection h with h
    subst h
    refine ⟨hc, ?_, ?_, ?_, ?_⟩
    · generalize currentSet r + 1 = n
      unfold currentSet joinBits; ext i hi; interval_cases i <;> simp
    · generalize currentSet r + 1 = n
      unfold previousSet currentSet joinBits; ext i hi; interval_cases i <;> simp
    · unfold joinBits; ext i hi; interval_cases i <;> simp
    · unfold joinBits; ext i hi; interval_cases i <;> simp
  · cases h

/-- A push succeeds exactly when the set after the current one exists (10_state.md R28). -/
theorem pushRegset_total {r : BitVec 16} (h : (currentSet r).toNat < 2) : ∃ p, pushRegset r = .ok p := by
  simp [pushRegset, h]

/-- What a pop leaves (10_state.md R26): the entries move down, the select bits stay, the top entry is the draw. -/
theorem popRegset_fields (r : BitVec 16) (top : BitVec 2) :
    (popRegset r top).extractLsb' 0 4 = r.extractLsb' 0 4 ∧ (popRegset r top).extractLsb' 4 10 = r.extractLsb' 6 10 ∧
      (popRegset r top).extractLsb' 14 2 = top := by
  refine ⟨?_, ?_, ?_⟩ <;> (unfold popRegset joinBits; ext i hi; interval_cases i <;> simp)

/-! ## Traps -/

/-- Everything a trap can do. -/
theorem takeTrap_cases {k : TrapKind} {epc : Word} {s t : State} (h : takeTrap k epc s = .next t) :
    ∃ p, pushRegset s.regset = .ok p ∧
      t = { s with modePrev := s.mode, iePrev := s.ie, mode := .machine, ie := false, mepc := epc, mcause := causeCode k s.mode,
                   regset := p, waiting := false, pc := trapTarget k s } := by
  obtain ⟨p, hp, ht⟩ := orFault_next h
  injection ht with ht
  exact ⟨p, hp, ht.symm⟩

/-- A trap that completes leaves the state R380 describes. -/
theorem takeTrap_taken {k : TrapKind} {epc : Word} {s t : State} (h : takeTrap k epc s = .next t) : TrapTaken k epc s t := by
  obtain ⟨p, hp, rfl⟩ := takeTrap_cases h
  obtain ⟨_, h1, h2, h3, h4⟩ := pushRegset_cases hp
  exact ⟨rfl, rfl, rfl, rfl, rfl, rfl, rfl, rfl, h1, h2, h3, h4, IntegerSame.of_sets rfl rfl rfl, FloatSame.of_file rfl, rfl, rfl,
    rfl, ⟨rfl, rfl, rfl, rfl, rfl⟩, ⟨rfl, rfl, rfl, rfl, rfl, rfl, rfl, rfl, rfl⟩, MemorySame.of_fields rfl rfl rfl⟩

/-- A trap completes whenever the register set it pushes exists. -/
theorem takeTrap_total {k : TrapKind} {epc : Word} {s : State} (h : (currentSet s.regset).toNat < 2) :
    ∃ t, takeTrap k epc s = .next t := by
  obtain ⟨p, hp⟩ := pushRegset_total h
  simp [takeTrap, hp]

/-- Everything the end of a wait can do (60_exceptions.md R393). -/
theorem wakeUp_cases {s t : State} (h : wakeUp s = .next t) :
    (s.ie = true ∧ takeTrap (.interrupt (chooseSource (requests s))) (s.pc + 4) s = .next t) ∨
      (s.ie = false ∧ t = { s with waiting := false, pc := s.pc + 4 }) := by
  unfold wakeUp takeInterrupt at h
  split at h
  · next hi => exact .inl ⟨hi, h⟩
  · next hi => injection h with h; exact .inr ⟨by simpa using hi, h.symm⟩

/-- The source an interrupt reports is one of those that request it (60_exceptions.md R392). -/
theorem chooseSource_mem {set : Word} (h : set ≠ 0) : set.getLsbD (chooseSource set).val = true := by
  unfold chooseSource
  split
  · next hp => exact hp
  · have hex : ∃ i : Fin 64, set.getLsbD i.val = true := by
      by_contra hn
      apply h
      ext i hi
      have := fun hb => hn ⟨⟨i, hi⟩, hb⟩
      simpa [BitVec.getLsbD_eq_getElem hi] using this
    obtain ⟨i, hi⟩ := hex
    cases hf : (List.finRange 64).find? (fun i => set.getLsbD i.val) with
    | none =>
      have := List.find?_eq_none.1 hf i (List.mem_finRange i)
      simp [hi] at this
    | some j => simpa using List.find?_some hf

/-- A machine-only instruction that answers a next state runs in machine mode. -/
theorem machineOnly_next {s t : State} {r : Result} (h : machineOnly s r = .next t) : s.mode = .machine ∧ r = .next t := by
  unfold machineOnly at h
  split at h
  · cases h
  · next hm => exact ⟨hm, h⟩

end Sys2Proof.Machine
end

