-- ==== Sys2Proof/Laws/Shapes.lean ====
section
/-! SUPPORT. Everything each shared form of a meaning can do: if it answers a next state, then that state is one of those
named here. -/

namespace Sys2Proof.Machine

theorem finishX_cases {rd : Reg} {v : Word} {s t : State} (h : finishX rd v s = .next t) :
    ∃ u, writeX rd v s = .ok u ∧ t = u.advance := by
  obtain ⟨u, hu, ht⟩ := orFault_next h
  injection ht with ht
  exact ⟨u, hu, ht.symm⟩

theorem regImm_cases {rd rs1 : Reg} {f : Word → Word} {s t : State} (h : regImm rd rs1 f s = .next t) :
    ∃ a u, readX .rs1 rs1 s = .ok a ∧ writeX rd (f a) s = .ok u ∧ t = u.advance := by
  obtain ⟨a, ha, h⟩ := orFault_next h
  obtain ⟨u, hu, ht⟩ := finishX_cases h
  exact ⟨a, u, ha, hu, ht⟩

theorem regReg_cases {rd rs1 rs2 : Reg} {f : Word → Word → Word} {s t : State} (h : regReg rd rs1 rs2 f s = .next t) :
    ∃ a b u, readX .rs1 rs1 s = .ok a ∧ readX .rs2 rs2 s = .ok b ∧ writeX rd (f a b) s = .ok u ∧ t = u.advance := by
  obtain ⟨a, ha, h⟩ := orFault_next h
  obtain ⟨b, hb, h⟩ := orFault_next h
  obtain ⟨u, hu, ht⟩ := finishX_cases h
  exact ⟨a, b, u, ha, hb, hu, ht⟩

theorem jumpLink_cases {rd : Reg} {target : Word} {s t : State} (h : jumpLink rd target s = .next t) :
    ∃ u, writeX rd (s.pc + 4) s = .ok u ∧ t = u.setPc (clearLow2 target) := by
  obtain ⟨u, hu, ht⟩ := orFault_next h
  injection ht with ht
  exact ⟨u, hu, ht.symm⟩

/-- A branch moves `pc` alone. -/
theorem branchIf_cases {c : Bool} {off : BitVec 12} {s t : State} (h : branchIf c off s = .next t) :
    t = s.setPc (if c then s.pc + branchDisplacement off else s.pc + 4) := by
  injection h with h
  rw [← h]
  split <;> rfl

theorem branchOn_cases {rs1 rs2 : Reg} {off : BitVec 12} {c : Word → Word → Bool} {s t : State}
    (h : branchOn rs1 rs2 off c s = .next t) :
    ∃ a b, readX .rs1 rs1 s = .ok a ∧ readX .rs2 rs2 s = .ok b ∧
      t = s.setPc (if c a b then s.pc + branchDisplacement off else s.pc + 4) := by
  obtain ⟨a, ha, h⟩ := orFault_next h
  obtain ⟨b, hb, h⟩ := orFault_next h
  exact ⟨a, b, ha, hb, branchIf_cases h⟩

theorem loadFrom_cases {rs1 : Reg} {imm : BitVec 12} {n : Nat} {s : State} {r : List Byte × State}
    (h : loadFrom rs1 imm n s = .ok r) :
    ∃ a, readX .rs1 rs1 s = .ok a ∧ memRead (effectiveAddress a imm) n s = .ok r := by
  unfold loadFrom at h
  split at h
  · next a ha => exact ⟨a, ha, h⟩
  · cases h

/-- An integer load reads memory, then writes its destination. -/
theorem loadX_cases {rd rs1 : Reg} {imm : BitVec 12} {n : Nat} {value : List Byte → Word} {s t : State}
    (h : loadX rd rs1 imm n value s = .next t) :
    ∃ a bytes q u, readX .rs1 rs1 s = .ok a ∧ memRead (effectiveAddress a imm) n s = .ok (bytes, q) ∧
      writeX rd (value bytes) q = .ok u ∧ t = u.advance := by
  obtain ⟨⟨bytes, q⟩, hr, h⟩ := orFault_next h
  obtain ⟨a, ha, hm⟩ := loadFrom_cases hr
  obtain ⟨u, hu, ht⟩ := finishX_cases h
  exact ⟨a, bytes, q, u, ha, hm, hu, ht⟩

theorem storeAt_cases {base : Word} {imm : BitVec 12} {bytes : List Byte} {s t : State}
    (h : storeAt base imm bytes s = .next t) :
    ∃ u, memWrite (effectiveAddress base imm) bytes s = .ok u ∧ t = u.advance := by
  obtain ⟨u, hu, ht⟩ := orFault_next h
  injection ht with ht
  exact ⟨u, hu, ht.symm⟩

theorem storeX_cases {rs2 rs1 : Reg} {imm : BitVec 12} {n : Nat} {s t : State} (h : storeX rs2 rs1 imm n s = .next t) :
    ∃ a b u, readX .rs1 rs1 s = .ok a ∧ readX .rs2 rs2 s = .ok b ∧
      memWrite (effectiveAddress a imm) (leBytes b n) s = .ok u ∧ t = u.advance := by
  obtain ⟨a, ha, h⟩ := orFault_next h
  obtain ⟨b, hb, h⟩ := orFault_next h
  obtain ⟨u, hu, ht⟩ := storeAt_cases h
  exact ⟨a, b, u, ha, hb, hu, ht⟩

theorem fpBinary_cases {op : RoundingMode → Tetra → Tetra → Tetra × BitVec 5} {frd frs1 frs2 : Reg} {rm : BitVec 3}
    {s t : State} (h : fpBinary op frd frs1 frs2 rm s = .next t) :
    ∃ m, roundingMode rm s = .ok m ∧ finishF frd (op m (s.fsingle frs1) (s.fsingle frs2)).1
      (op m (s.fsingle frs1) (s.fsingle frs2)).2 s = .next t :=
  orFault_next h

/-! ## CSRs -/

/-- A CSR write leaves the register files, memory, `pc`, the counters and what no CSR holds as they are. -/
theorem csrWrite_frame {c : Csr} {v : Word} {s t : State} (h : csrWrite c v s = .ok t) :
    t.pc = s.pc ∧ t.xset0 = s.xset0 ∧ t.xset1 = s.xset1 ∧ t.xset2 = s.xset2 ∧ t.freg = s.freg ∧ t.mem = s.mem ∧
      t.stored = s.stored ∧ t.ioWrites = s.ioWrites ∧ t.seg = s.seg ∧ t.pageMap = s.pageMap ∧ t.mresume = s.mresume ∧
      t.waiting = s.waiting ∧ t.draws = s.draws ∧ OutsideSame s t := by
  cases c <;> simp only [csrWrite, Except.ok.injEq, reduceCtorEq] at h <;> subst h <;>
    exact ⟨rfl, rfl, rfl, rfl, rfl, rfl, rfl, rfl, rfl, rfl, rfl, rfl, rfl, ⟨rfl, rfl, rfl, rfl, rfl⟩⟩

/-- Everything a CSR write can do to the mode: one of `mstatus` sets machine mode, any other leaves it (60_exceptions.md R395). -/
theorem csrWrite_mode {c : Csr} {v : Word} {s t : State} (h : csrWrite c v s = .ok t) :
    t.mode = s.mode ∨ (c = .mstatus ∧ t.mode = .machine) := by
  cases c <;> simp only [csrWrite, Except.ok.injEq, reduceCtorEq] at h <;> subst h <;> first
    | exact .inl rfl
    | exact .inr ⟨rfl, rfl⟩

/-- A CSR write succeeds exactly on the registers whose write the source gives an effect. -/
theorem csrWrite_total {c : Csr} (h : csrWritable c = true) (v : Word) (s : State) : ∃ t, csrWrite c v s = .ok t := by
  cases c <;> simp [csrWritable] at h <;> exact ⟨_, rfl⟩

/-- Everything a CSR instruction can do. -/
theorem csrInstr_cases {rd : Reg} {n : BitVec 12} {operand : Except Fault Word} {writes : Bool} {f : Word → Word → Word}
    {s t : State} (h : csrInstr rd n operand writes f s = .next t) :
    ∃ c a u, csrAccess n s = .ok c ∧ operand = .ok a ∧ writeX rd (csrRead c s) s = .ok u ∧
      ((writes = false ∧ t = u.advance) ∨ ∃ w, writes = true ∧ csrWrite c (f (csrRead c s) a) u = .ok w ∧ t = w.advance) := by
  obtain ⟨c, hc, h⟩ := orFault_next h
  obtain ⟨a, ha, h⟩ := orFault_next h
  obtain ⟨u, hu, h⟩ := orFault_next h
  refine ⟨c, a, u, hc, ha, hu, ?_⟩
  split at h
  · next hw =>
    obtain ⟨w, hcw, ht⟩ := orFault_next h
    injection ht with ht
    exact .inr ⟨w, hw, hcw, ht.symm⟩
  · next hw =>
    injection h with h
    exact .inl ⟨by simpa using hw, h.symm⟩

/-- What user mode may access (10_state.md R52 (b)). -/
theorem csrAccess_user {n : BitVec 12} {s : State} {c : Csr} (h : csrAccess n s = .ok c) (hu : s.mode = .user) :
    userCsr c = true := by
  unfold csrAccess at h
  split at h
  · cases h
  · split at h
    · cases h
    · next hn =>
      injection h with h
      subst h
      simpa [hu] using hn

/-! ## Step boundaries -/

/-- The counters and the draw counter alone advance (44_machine_mode.md R305). -/
theorem tick_frame (s : State) : ∃ c t i d, s.tick = { s with cycle := c, time := t, instret := i, draws := d } := by
  unfold State.tick
  split
  · exact ⟨s.cycle, _, s.instret, _, rfl⟩
  · exact ⟨_, _, _, _, rfl⟩

/-- What the hart sees pending are sources of the machine (60_exceptions.md R390). -/
theorem acceptedPending_within (p : Word) (s : State) : acceptedPending p s &&& ~~~sources = 0 := by
  have h : p &&& sources &&& ~~~sources = 0 := by
    rw [BitVec.and_assoc, BitVec.and_not_self]
    exact BitVec.and_zero
  unfold acceptedPending
  split
  · exact h
  · exact withoutTimer_within h

/-- An arrival touches the pending sources alone. -/
theorem acceptArrival_frame (s : State) : ∃ p ar, s.acceptArrival = { s with pending := p, arrivals := ar } := by
  unfold State.acceptArrival
  split
  · exact ⟨s.pending, s.arrivals, rfl⟩
  · exact ⟨_, _, rfl⟩

/-- A step boundary touches the counters, the pending sources, the arrivals and the draw counter alone. -/
theorem boundary_frame (s : State) :
    ∃ c t i p ar d, s.boundary = { s with cycle := c, time := t, instret := i, pending := p, arrivals := ar, draws := d } := by
  obtain ⟨c, t, i, d, ht⟩ := tick_frame s
  obtain ⟨p, ar, ha⟩ := acceptArrival_frame s.tick
  exact ⟨c, t, i, p, ar, d, by rw [State.boundary, ha, ht]⟩

/-- Everything a fetch of an instruction can do. -/
theorem fetchInstr_cases {s t : State} {i : Instr} (h : fetchInstr s = .ok (i, t)) :
    ∃ bytes, fetchBytes s = .ok (bytes, t) ∧ decodeBytes bytes = .ok i := by
  unfold fetchInstr at h
  split at h
  · cases h
  · next r hr =>
    split at h
    · next j hj =>
      injection h with h
      injection h with h1 h2
      exact ⟨r.1, by rw [hr, ← h2], by rw [hj, h1]⟩
    · cases h

/-- Everything a step can do. -/
theorem step_cases {s t : State} (h : step s = .next t) :
    (s.boundary.waiting = true ∧ intRequest s.boundary = true ∧ wakeUp s.boundary = .next t) ∨
    (s.boundary.waiting = true ∧ intRequest s.boundary = false ∧ t = s.boundary) ∨
    (s.boundary.waiting = false ∧ s.boundary.ie = true ∧ intRequest s.boundary = true ∧
      takeInterrupt s.boundary.pc s.boundary = .next t) ∨
    ∃ i q, s.boundary.waiting = false ∧ fetchInstr s.boundary = .ok (i, q) ∧ exec i q = .next t := by
  unfold step at h
  simp only at h
  split at h
  · next hw =>
    split at h
    · next hr => exact .inl ⟨hw, hr, h⟩
    · next hr => injection h with h; exact .inr (.inl ⟨hw, by simpa using hr, h.symm⟩)
  · next hw =>
    split at h
    · next hi =>
      rw [Bool.and_eq_true] at hi
      exact .inr (.inr (.inl ⟨by simpa using hw, hi.1, hi.2, h⟩))
    · obtain ⟨⟨i, q⟩, hf, he⟩ := orFault_next h
      exact .inr (.inr (.inr ⟨i, q, by simpa using hw, hf, he⟩))

end Sys2Proof.Machine
end

