-- ==== Sys2Proof/Tests/Slice0.lean ====
section
/-! SUPPORT. Tests: the well-formedness smoke, decoding of words written out from the opcode table and 30_encoding.md, vectors of
spec/95_test_vectors.md (each test names its section), and a witness for the hypotheses of each statement. -/

namespace Sys2Proof.Tests

open Sys2Proof.Machine

/-! ## Well-formedness: each check refuses an ill-formed term -/

theorem test_wellFormed_refuses_counter_reads :
    ¬WellFormed (.csrrw 3 0xC00 0) ∧ ¬WellFormed (.csrrw 3 0xC80 0) ∧ ¬WellFormed (.csrrw 3 0xC01 0) ∧
    ¬WellFormed (.csrrw 3 0xC81 0) ∧ ¬WellFormed (.csrrw 3 0xC02 0) ∧ ¬WellFormed (.csrrw 3 0xC82 0) := by
  decide

theorem test_wellFormed_accepts : WellFormed (.csrrw 3 0xC00 1) ∧ WellFormed (.csrrw 3 0x340 0) ∧ WellFormed .nop := by
  decide

/-! ## Decoding (word = the table's match value with rd 3, rs1 1, rs2 2, rs3 4, and immediates with both end bits set) -/

theorem test_decode_upper_and_jumps :
    decode 0x800011B7 = .ok (.lui 3 0x80001) ∧
    decode 0x80001197 = .ok (.auipc 3 0x80001) ∧
    decode 0x805001EF = .ok (.jal 3 0x80402) ∧
    decode 0x801081E7 = .ok (.jalr 3 1 0x801) := by
  decide

theorem test_decode_branches :
    decode 0x80208263 = .ok (.beq 1 2 0x802) ∧
    decode 0x80209263 = .ok (.bne 1 2 0x802) ∧
    decode 0x8020C263 = .ok (.blt 1 2 0x802) ∧
    decode 0x8020D263 = .ok (.bge 1 2 0x802) ∧
    decode 0x8020E263 = .ok (.bltu 1 2 0x802) ∧
    decode 0x8020F263 = .ok (.bgeu 1 2 0x802) := by
  decide

theorem test_decode_fences :
    decode 0x0390000F = .ok (.fence 3 9) ∧
    decode 0x0000100F = .ok .fence_i := by
  decide

theorem test_decode_loads_and_stores :
    decode 0x80108183 = .ok (.lb 3 1 0x801) ∧
    decode 0x80109183 = .ok (.lh 3 1 0x801) ∧
    decode 0x8010A183 = .ok (.lw 3 1 0x801) ∧
    decode 0x8010C183 = .ok (.lbu 3 1 0x801) ∧
    decode 0x8010D183 = .ok (.lhu 3 1 0x801) ∧
    decode 0x8010A187 = .ok (.flw 3 1 0x801) ∧
    decode 0x802080A3 = .ok (.sb 2 1 0x801) ∧
    decode 0x802090A3 = .ok (.sh 2 1 0x801) ∧
    decode 0x8020A0A3 = .ok (.sw 2 1 0x801) ∧
    decode 0x8020A0A7 = .ok (.fsw 2 1 0x801) := by
  decide

theorem test_decode_immediate :
    decode 0x80108193 = .ok (.addi 3 1 0x801) ∧
    decode 0x8010A193 = .ok (.slti 3 1 0x801) ∧
    decode 0x8010B193 = .ok (.sltui 3 1 0x801) ∧
    decode 0x8010C193 = .ok (.xori 3 1 0x801) ∧
    decode 0x8010E193 = .ok (.ori 3 1 0x801) ∧
    decode 0x8010F193 = .ok (.andi 3 1 0x801) ∧
    decode 0x02109193 = .ok (.slli 3 1 0x21) ∧
    decode 0x0210D193 = .ok (.srli 3 1 0x21) ∧
    decode 0x4210D193 = .ok (.srai 3 1 0x21) := by
  decide

theorem test_decode_register :
    decode 0x002081B3 = .ok (.add 3 1 2) ∧
    decode 0x402081B3 = .ok (.sub 3 1 2) ∧
    decode 0x022081B3 = .ok (.mul 3 1 2) ∧
    decode 0x002091B3 = .ok (.sll 3 1 2) ∧
    decode 0x0020A1B3 = .ok (.slt 3 1 2) ∧
    decode 0x0020B1B3 = .ok (.sltu 3 1 2) ∧
    decode 0x0020C1B3 = .ok (.xor 3 1 2) ∧
    decode 0x0020D1B3 = .ok (.srl 3 1 2) ∧
    decode 0x4020D1B3 = .ok (.sra 3 1 2) ∧
    decode 0x0020E1B3 = .ok (.or 3 1 2) ∧
    decode 0x0020F1B3 = .ok (.and 3 1 2) := by
  decide

theorem test_decode_float_arithmetic :
    decode 0x0020C1D3 = .ok (.fadd 3 1 2 4) ∧
    decode 0x0820C1D3 = .ok (.fsub 3 1 2 4) ∧
    decode 0x1020C1D3 = .ok (.fmul 3 1 2 4) ∧
    decode 0x1820C1D3 = .ok (.fdiv 3 1 2 4) ∧
    decode 0x282081D3 = .ok (.fmin 3 1 2) ∧
    decode 0x282091D3 = .ok (.fmax 3 1 2) ∧
    decode 0x5800C1D3 = .ok (.fsqrt 3 1 4) := by
  decide

theorem test_decode_float_other :
    decode 0x802081D3 = .ok (.fsgnj 3 1 2) ∧
    decode 0x802091D3 = .ok (.fsgnjn 3 1 2) ∧
    decode 0x8020A1D3 = .ok (.fsgnjx 3 1 2) ∧
    decode 0xA020A1D3 = .ok (.feq 3 1 2) ∧
    decode 0xA02091D3 = .ok (.flt 3 1 2) ∧
    decode 0xA02081D3 = .ok (.fle 3 1 2) ∧
    decode 0xC000C1D3 = .ok (.fcvt_w_s 3 1 4) ∧
    decode 0xC010C1D3 = .ok (.fcvt_wu_s 3 1 4) ∧
    decode 0xC800C1D3 = .ok (.fcvt_s_w 3 1 4) ∧
    decode 0xC810C1D3 = .ok (.fcvt_s_wu 3 1 4) ∧
    decode 0xE00081D3 = .ok (.fmv_x_s 3 1) ∧
    decode 0xE00091D3 = .ok (.fclass 3 1) ∧
    decode 0xF00081D3 = .ok (.fmv_s_x 3 1) := by
  decide

theorem test_decode_system :
    decode 0x00000073 = .ok .ecall ∧
    decode 0x00100073 = .ok .ebreak ∧
    decode 0x10000073 = .ok .eret ∧
    decode 0x10100073 = .ok .wfi ∧
    decode 0x10300073 = .ok .pfi ∧
    decode 0xC00011F3 = .ok (.rdcycle 3) ∧
    decode 0xC80011F3 = .ok (.rdcycleh 3) ∧
    decode 0xC01011F3 = .ok (.rdtime 3) ∧
    decode 0xC81011F3 = .ok (.rdtimeh 3) ∧
    decode 0xC02011F3 = .ok (.rdinstret 3) ∧
    decode 0xC82011F3 = .ok (.rdinstreth 3) := by
  decide

theorem test_decode_csr :
    decode 0x340091F3 = .ok (.csrrw 3 0x340 1) ∧
    decode 0x3400A1F3 = .ok (.csrrs 3 0x340 1) ∧
    decode 0x3400B1F3 = .ok (.csrrc 3 0x340 1) ∧
    decode 0x340AD1F3 = .ok (.csrrwi 3 0x340 0x15) ∧
    decode 0x340AE1F3 = .ok (.csrrsi 3 0x340 0x15) ∧
    decode 0x340AF1F3 = .ok (.csrrci 3 0x340 0x15) := by
  decide

theorem test_decode_custom :
    decode 0x0020818D = .ok (.mvseg 3 1 2) ∧
    decode 0x0220818D = .ok (.mvmap 3 1 2) ∧
    decode 0x0800018D = .ok (.palloc 3) ∧
    decode 0x0A00800D = .ok (.pfree 1) ∧
    decode 0x0C00000D = .ok .pfreeall ∧
    decode 0x1020800D = .ok (.setto 1 2) ∧
    decode 0x1200818D = .ok (.getto 3 1) ∧
    decode 0x1400018D = .ok (.getzl 3) ∧
    decode 0x1600000D = .ok .decto := by
  decide

theorem test_decode_custom_lists :
    decode 0x1820800D = .ok (.insrdy 1 2) ∧
    decode 0x1A00800D = .ok (.rmvrdy 1) ∧
    decode 0x1C00818D = .ok (.getrdy 3 1) ∧
    decode 0x2000800D = .ok (.insiof 1) ∧
    decode 0x2200800D = .ok (.rmviof 1) ∧
    decode 0x2400018D = .ok (.nxtiof 3) ∧
    decode 0x2600018D = .ok (.prviof 3) ∧
    decode 0x2460918D = .ok (.lxx 3 1 4 2 6) ∧
    decode 0x2420A30D = .ok (.sxx 2 1 4 2 6) := by
  decide


/-- Words that match no row (95_test_vectors.md 2.1, 2.5, 2.6). -/
theorem test_decode_refuses :
    decode 0x2000D193 = .error .unlistedEncoding ∧ decode 0x040081B3 = .error .unlistedEncoding ∧
    decode 0x00000000 = .error .unlistedEncoding ∧ decode 0xFFFFFFFF = .error .unlistedEncoding ∧
    decode 0x5810F1D3 = .error .unlistedEncoding ∧ decode 0x0220F1D3 = .error .unlistedEncoding ∧
    decode 0x2820A1D3 = .error .unlistedEncoding ∧ decode 0x00008073 = .error .unlistedEncoding ∧
    decode 0x0400018D = .error .unlistedEncoding := by
  decide

/-- Assembler spellings are read as what they stand for (95_test_vectors.md S10). -/
theorem test_decode_spellings :
    decode 0x00000013 = .ok (.addi 0 0 0) ∧ decode 0x00008067 = .ok (.jalr 0 1 0) ∧ decode 0x00086933 = .ok (.or 18 16 0) ∧
    decode 0x00115463 = .ok (.bge 2 1 4) ∧ decode 0x80108153 = .ok (.fsgnj 2 1 1) := by
  decide

/-! ## Vectors: the states -/

/-- A register file with `a` in register 1 and `b` in register 2. -/
def fileOf (a b : Word) : RegFile := ((Vector.replicate 32 0).set 1 a).set 2 b

/-- Machine mode, all operands in set 1 (`regset` = 0x001F), `x1`, `x2`, at `pc` = 0x1000 (95_test_vectors.md, opening). -/
def two (a b : Word) : State := { State.reset with regset := 0x001F, xset1 := fileOf a b, pc := 0x1000 }

/-- The same with floating-point registers f1 and f2. -/
def floats (a b : Word) : State := { two 0 0 with freg := fileOf a b }

/-- Bytes 80 FF 7F 01 EF CD AB 89 at 0x2000 (95_test_vectors.md 2.3), `x1` and `x2` as given. -/
def bytes (a b : Word) : State :=
  { two a b with mem := [(0x2000, 0x80), (0x2001, 0xFF), (0x2002, 0x7F), (0x2003, 0x01), (0x2004, 0xEF), (0x2005, 0xCD),
                         (0x2006, 0xAB), (0x2007, 0x89)] }

/-- What `get` shows of the state after the instruction `w`, if one follows. -/
def after {α : Type} (w : Tetra) (get : State → α) (s : State) : Option α :=
  match decode w with
  | .error _ => none
  | .ok i =>
    match exec i s with
    | .next t => some (get t)
    | _ => none

/-- The fault or refusal the instruction `w` stops with. -/
def stop (w : Tetra) (s : State) : Option (Fault ⊕ Refusal) :=
  match decode w with
  | .error _ => none
  | .ok i =>
    match exec i s with
    | .next _ => none
    | .fault f => some (.inl f)
    | .refused r => some (.inr r)

/-- Register `i` of set 1 after `w`. -/
def gets (w : Tetra) (i : Reg) (s : State) : Option Word := after w (fun t => t.xval .set1 i) s

/-- `pc` after `w`. -/
def goes (w : Tetra) (s : State) : Option Word := after w (fun t => t.pc) s

/-- Bits 31..0 of f3 after `w`. -/
def getsF (w : Tetra) (s : State) : Option Tetra := after w (fun t => t.fsingle 3) s

/-- The low half of f3 after a write of it, whatever the draw in the high half is. -/
theorem written (s : State) (r v : Tetra) (h : r = v) : some ((s.setF 3 r).advance.fsingle 3) = some v :=
  congrArg some ((s.fsingle_setF 3 r (by decide)).trans h)

/-! ## Integer vectors (95_test_vectors.md 2.1) -/

theorem test_lui : gets 0xFFFC02B7 5 (two 0 0) = some 0xFFFFFFFFFFFC0000 := by decide
theorem test_auipc : gets 0xFFFFF317 6 (two 0 0) = some 0 := by decide
theorem test_addi_wraps : gets 0x00108193 3 (two 0x7FFFFFFFFFFFFFFF 0) = some 0x8000000000000000 := by decide
theorem test_addi_same_register : gets 0x80008093 1 (two 0x800 0) = some 0 := by decide
theorem test_slti : gets 0xFFF0A193 3 (two 0xFFFFFFFFFFFFFFFE 0) = some 1 := by decide
theorem test_sltui : gets 0xFFF0B193 3 (two 0xFFFFFFFFFFFFFFFF 0) = some 0 := by decide
theorem test_xori : gets 0xFFF0C193 3 (two 0x00FF00FF00FF00FF 0) = some 0xFF00FF00FF00FF00 := by decide
theorem test_ori : gets 0x7000E193 3 (two 0xF0 0) = some 0x7F0 := by decide
theorem test_andi : gets 0xFF00F193 3 (two 0x123456789ABCDEFF 0) = some 0x123456789ABCDEF0 := by decide
theorem test_slli : gets 0x03F09193 3 (two 1 0) = some 0x8000000000000000 := by decide
theorem test_srli : gets 0x0200D193 3 (two 0xFFFFFFFF00000000 0) = some 0xFFFFFFFF := by decide
theorem test_srai : gets 0x4040D193 3 (two 0x8000000000000000 0) = some 0xF800000000000000 := by decide
theorem test_add : gets 0x002081B3 3 (two 0xFFFFFFFFFFFFFFFF 1) = some 0 := by decide
theorem test_sub : gets 0x402081B3 3 (two 0 1) = some 0xFFFFFFFFFFFFFFFF := by decide
theorem test_mul : gets 0x022081B3 3 (two 0x0000000123456789 0x1000) = some 0x0000123456789000 := by decide
theorem test_sll : gets 0x002091B3 3 (two 1 0x41) = some 2 := by decide
theorem test_slt : gets 0x0020A1B3 3 (two 1 0xFFFFFFFFFFFFFFFF) = some 0 := by decide
theorem test_sltu : gets 0x0020B1B3 3 (two 1 0xFFFFFFFFFFFFFFFF) = some 1 := by decide
theorem test_xor : gets 0x0020C1B3 3 (two 0xFF00FF00FF00FF00 0x0FF00FF00FF00FF0) = some 0xF0F0F0F0F0F0F0F0 := by decide
theorem test_srl : gets 0x0020D1B3 3 (two 0x8000000000000000 0x40) = some 0x8000000000000000 := by decide
theorem test_sra : gets 0x4020D1B3 3 (two 0x8000000000000000 0xFFFFFFFFFFFFFFFF) = some 0xFFFFFFFFFFFFFFFF := by decide
theorem test_or : gets 0x0020E1B3 3 (two 0xF0F0 0x0F0F) = some 0xFFFF := by decide
theorem test_and : gets 0x0020F1B3 3 (two 0xFFFF0000FFFF0000 0x0FF00FF00FF00FF0) = some 0x0FF000000FF00000 := by decide

/-! ## Control-flow vectors (95_test_vectors.md 2.2, at `pc` = 0x1000) -/

theorem test_jal : goes 0x006000EF (two 0 0) = some 0x1004 ∧ gets 0x006000EF 1 (two 0 0) = some 0x1004 := by decide
theorem test_jalr : goes 0x000080E7 (two 0x3003 0) = some 0x3000 ∧ gets 0x000080E7 1 (two 0x3003 0) = some 0x1004 := by decide
theorem test_beq : goes 0x00208463 (two 5 5) = some 0x1008 ∧ goes 0x00208463 (two 5 6) = some 0x1004 := by decide
theorem test_bne : goes 0xFE209CE3 (two 5 6) = some 0xFF8 ∧ goes 0xFE209CE3 (two 5 5) = some 0x1004 := by decide
theorem test_blt : goes 0x0020C463 (two 0xFFFFFFFFFFFFFFFF 1) = some 0x1008 ∧ goes 0x0020C463 (two 1 1) = some 0x1004 := by
  decide
theorem test_bge : goes 0x0020D463 (two 1 1) = some 0x1008 ∧ goes 0x0020D463 (two 0xFFFFFFFFFFFFFFFF 1) = some 0x1004 := by
  decide
theorem test_bltu : goes 0x0020E463 (two 1 0xFFFFFFFFFFFFFFFF) = some 0x1008 ∧
    goes 0x0020E463 (two 0xFFFFFFFFFFFFFFFF 1) = some 0x1004 := by decide
theorem test_bgeu : goes 0x0020F463 (two 0xFFFFFFFFFFFFFFFF 1) = some 0x1008 ∧ goes 0x0020F463 (two 0 1) = some 0x1004 := by
  decide
theorem test_branch_extremes : goes 0x80000063 (two 0 0) = some 0 ∧ goes 0x7E000FE3 (two 0 0) = some 0x1FFE := by decide
theorem test_fences : goes 0x0330000F (two 0 0) = some 0x1004 ∧ goes 0x0000100F (two 0 0) = some 0x1004 := by decide

/-! ## Load and store vectors (95_test_vectors.md 2.3) -/

theorem test_lb : gets 0xFFF08183 3 (bytes 0x2001 0) = some 0xFFFFFFFFFFFFFF80 := by decide
theorem test_lbu : gets 0x0000C183 3 (bytes 0x100002000 0) = some 0x80 := by decide
theorem test_lh : gets 0x00109183 3 (bytes 0x2000 0) = some 0x7FFF := by decide
theorem test_lhu : gets 0x0000D183 3 (bytes 0x2000 0) = some 0xFF80 := by decide
theorem test_lw : gets 0x0020A183 3 (bytes 0x2000 0) = some 0xFFFFFFFFCDEF017F := by decide
theorem test_flw : getsF 0x0040A187 (bytes 0x2000 0) = some 0x89ABCDEF := written _ _ _ (by decide)

/-- The bytes at 0x2000 to 0x2004. -/
def five (s : State) : List Byte := [0x2000, 0x2001, 0x2002, 0x2003, 0x2004].map s.byteAt

theorem test_sb : after 0xFE208FA3 five (bytes 0x2001 0x1122334455667788) = some [0x88, 0xFF, 0x7F, 0x01, 0xEF] := by decide
theorem test_sh : after 0x00209123 five (bytes 0x2000 0x1122334455667788) = some [0x80, 0xFF, 0x88, 0x77, 0xEF] := by decide
theorem test_sw : after 0x0020A023 five (bytes 0x2000 0x1122334455667788) = some [0x88, 0x77, 0x66, 0x55, 0xEF] := by decide
theorem test_fsw : after 0x0020A027 five { bytes 0x2000 0 with freg := fileOf 0 0x3F800000 } =
    some [0x00, 0x00, 0x80, 0x3F, 0xEF] := by decide

/-- The unaligned rows of the table: the same bytes in whatever order the bus takes them. -/
theorem test_sh_unaligned :
    after 0x002091A3 five (bytes 0x2000 0x1122334455667788) = some [0x80, 0xFF, 0x7F, 0x88, 0x77] := by
  refine congrArg some ((List.map_congr_left fun k _ => byteAt_storeCells (k := k) (by decide)).trans ?_)
  decide

theorem test_sw_unaligned :
    after 0x0020A0A3 five (bytes 0x2000 0x1122334455667788) = some [0x80, 0x88, 0x77, 0x66, 0x55] := by
  refine congrArg some ((List.map_congr_left fun k _ => byteAt_storeCells (k := k) (by decide)).trans ?_)
  decide

/-- Four bytes can reach the bus in each of their 24 orders (20_memory.md R75). -/
theorem test_inOrder_all : ((List.range 24).map fun w => inOrder w [0, 1, 2, 3]).Nodup := by decide

/-- An aligned store into a window is one event and leaves memory as it is (20_memory.md R75, R79). -/
theorem test_sw_window : after 0x0020A023 (fun t => (t.ioWrites, t.mem))
    { two 0xFF000000 0x1122334455667788 with devices := [⟨0xFF000000, 0x100⟩] } =
    some ([⟨[(0xFF000000, 0x88), (0xFF000001, 0x77), (0xFF000002, 0x66), (0xFF000003, 0x55)]⟩], []) := by decide

/-! ## Translation vectors (95_test_vectors.md 2.4) -/

/-- User mode, the source's example map, one data segment register and one code segment register as given. -/
def mapped (n : Fin 16) (v : BitVec 32) : State :=
  { two 0 0 with mode := .user, seg := (Vector.replicate 16 0).set n v, pageMap := [(0, 10), (1, 11), (0x11, 5)] }

/-- The physical address, if there is one. -/
def physical (va : VAddr) (k : Access) (s : State) : Option Nat :=
  match Machine.translate va k s with
  | .ok pa => some pa.toNat
  | .error _ => none

/-- The fault of a translation. -/
def refuses (va : VAddr) (k : Access) (s : State) : Option Fault :=
  match Machine.translate va k s with
  | .ok _ => none
  | .error f => some f

theorem test_translate_page : physical 0x00012345 .load (mapped 0 6) = some 0x000B2345 := by decide
theorem test_translate_wraps : physical 0x10000042 .load (mapped 1 0xFFFF0116) = some 0x00050042 := by decide
theorem test_translate_unmapped : physical 0xB0000010 .load (mapped 11 0x0004F006) = some 0xFF000010 := by decide
theorem test_translate_fetch :
    physical 0x00010000 .fetch (mapped 12 1) = some 0x000B0000 ∧ physical 0xFFFC0300 .fetch (mapped 0 0) = some 0xFFFC0300 := by
  decide
theorem test_translate_refuses :
    refuses 0x00012345 .store (mapped 0 4) = some .segPermission ∧
    refuses 0x10000042 .load (mapped 1 0x106) = some .pageOutOfMap ∧
    refuses 0x80000000 .load (mapped 8 6) = some .segSelectUnspecified ∧
    refuses 0x40010000 .fetch (mapped 13 6) = some .segPermission := by
  decide

/-! ## Floating-point vectors (95_test_vectors.md 2.5) -/

theorem test_fsgnj : getsF 0x802081D3 (floats 0x3F800000 0x80000000) = some 0xBF800000 := written _ _ _ (by decide)
theorem test_fsgnjn : getsF 0x802091D3 (floats 0x3F800000 0x80000000) = some 0x3F800000 := written _ _ _ (by decide)
theorem test_fsgnjx : getsF 0x8020A1D3 (floats 0xBF800000 0x80000000) = some 0x3F800000 := written _ _ _ (by decide)
theorem test_feq : gets 0xA020A1D3 3 (floats 0 0x80000000) = some 1 ∧ gets 0xA020A1D3 3 (floats 0x7FC00000 0x7FC00000) = some 0 := by
  decide
theorem test_flt : gets 0xA02091D3 3 (floats 0xFF800000 1) = some 1 ∧ gets 0xA02091D3 3 (floats 0x80000000 0) = some 0 := by
  decide
theorem test_fle : gets 0xA02081D3 3 (floats 0 0x80000000) = some 1 ∧ gets 0xA02081D3 3 (floats 0x40000000 0x3F800000) = some 0 := by
  decide
theorem test_fmv_x_s : after 0xE00081D3 (fun t => (t.xval .set1 3).extractLsb' 0 32) (floats 0xBF800000 0) = some 0xBF800000 :=
  congrArg some (joinBits_low32 _ _)
theorem test_fmv_s_x : getsF 0xF00081D3 (two 0x123456783F800000 0) = some 0x3F800000 := written _ _ _ (by decide)
theorem test_fadd_rounding : stop 0x0020D1D3 (floats 0 0) = some (.inl .fpRoundingModeInvalid) ∧
    stop 0x0020F1D3 { floats 0 0 with frm := 7 } = some (.inl .fpRoundingModeInvalid) := by decide
theorem test_fmin : getsF 0x282081D3 (floats 0x3F800000 0xC0000000) = some 0xC0000000 := written _ _ _ (by decide)
theorem test_fmax : getsF 0x282091D3 (floats 0x3F800000 0xC0000000) = some 0x3F800000 := written _ _ _ (by decide)

/-- What the mnemonics promise of the conversions: 1.0, -3.0 and 4294967040.0 are integers, 5 and -1 are patterns (R268 to R271). -/
theorem test_fcvt_exact (m : RoundingMode) :
    (fcvtWS m 0x3F800000).extractLsb' 0 32 = 1 ∧ (fcvtWS m 0xC0400000).extractLsb' 0 32 = 0xFFFFFFFD ∧
    (fcvtWUS m 0x4F7FFFFF).extractLsb' 0 32 = 0xFFFFFF00 ∧ fpIsInteger (fcvtSW m 0xFFFFFFFFFFFFFFFF) (-1) = true ∧
    fpIsInteger (fcvtSWU m 5) 5 = true :=
  ⟨heldInteger_of_integer (z := 1) (by decide) (by decide) (by decide) _,
    (heldInteger_of_integer (p := 0xC0400000) (lo := -2 ^ 31) (hi := 2 ^ 31 - 1) (z := -3) (by decide) (by decide) (by decide) _).trans
      (by decide),
    heldInteger_of_integer (z := 4294967040) (by decide) (by decide) (by decide) _,
    heldPattern_of_integer (p := 0xBF800000) (by decide) _, heldPattern_of_integer (p := 0x40A00000) (by decide) _⟩

/-- The square root of 4.0 is 2.0 in every rounding mode (R261). -/
theorem test_fsqrt_exact (m : RoundingMode) : (fpSqrt m 0x40800000).1 = 0x40000000 := fpSqrt_of_root (by decide) m

/-! ## CSR, register-set and trap vectors (95_test_vectors.md 2.6) -/

theorem test_csrrw : after 0x340091F3 (fun t => (t.xval .set1 3, t.mscratch)) { two 0x1234 0 with mscratch := 0xABCD } =
    some (0xABCD, 0x1234) := by decide
theorem test_csrrs : after 0x3400A1F3 (fun t => (t.xval .set1 3, t.mscratch)) { two 0x0F 0 with mscratch := 0xF0 } =
    some (0xF0, 0xFF) := by decide
theorem test_csrrc : after 0x3400B1F3 (fun t => (t.xval .set1 3, t.mscratch)) { two 0x0F 0 with mscratch := 0xFF } =
    some (0xFF, 0xF0) := by decide
theorem test_csrrwi : after 0x790FD073 (fun t => t.regset) { two 0 0 with regset := 0xFFFF } = some 0x001F := by decide
theorem test_csrrsi : after 0x0012E1F3 (fun t => (t.xval .set1 3, t.fflags)) { two 0 0 with fflags := 2 } = some (2, 7) := by
  decide
theorem test_csrrci : after 0x0012F1F3 (fun t => (t.xval .set1 3, t.fflags)) { two 0 0 with fflags := 0x1F } =
    some (0x1F, 0x1A) := by decide
theorem test_fcsr : after 0x003091F3 (fun t => (t.frm, t.fflags)) (two 0x1E5 0) = some (7, 5) := by decide
theorem test_mstatus_writes_fields : after 0x30009073 (fun t => (t.mode, t.ie, t.modePrev, t.iePrev)) (two 0x1234 0) =
    some (.machine, (Config.mstatusUnpack 0x1234).ie, (Config.mstatusUnpack 0x1234).modePrev,
      (Config.mstatusUnpack 0x1234).iePrev) := by rfl
theorem test_csr_stops :
    stop 0x301091F3 (two 0 0) = some (.inl .csrWriteUnspecified) ∧ stop 0xC0009073 (two 0 0) = some (.inl .csrReadOnlyWrite) ∧
    stop 0x7C0091F3 (two 0 0) = some (.inl .csrUnknown) ∧
    stop 0x340021F3 { two 0 0 with mode := .user } = some (.inl .csrPrivilege) := by decide
theorem test_regset_destination : after 0x00700293 (fun t => (t.xval .set0 5, t.xval .set1 5)) { two 0 0 with regset := 0x001E } =
    some (7, 0) := by decide
theorem test_regset_source :
    gets 0x002081B3 3 { two 1 2 with regset := 0x001D, xset0 := fileOf 100 0 } = some 102 ∧
    stop 0x002081B3 { two 1 2 with regset := 0x003F } = some (.inl .regsetInvalid) ∧
    goes 0x00000033 { two 1 2 with regset := 0x003F } = some 0x1004 := by decide

/-- User mode before a trap (95_test_vectors.md 2.6, row ECALL). -/
def caller : State :=
  { two 0 0 with mode := .user, pc := 0x10010, regset := 0x000F, ie := true, mresume := 0xFFFC0204 }

theorem test_ecall : after 0x00000073 (fun t => (t.mode, t.ie, t.iePrev, t.modePrev)) caller = some (.machine, false, true, .user) ∧
    after 0x00000073 (fun t => (t.mepc, t.regset, t.pc)) caller = some (0x10010, 0x001F, 0xFFFC0204) := by decide
theorem test_ebreak : after 0x00100073 (fun t => (t.mepc, t.regset, t.pc)) caller = some (0x10010, 0x001F, 0xFFFC0204) := by
  decide
theorem test_eret : after 0x10000073 (fun t => (t.mode, t.ie, t.mresume, t.pc))
    { two 0 0 with pc := 0xFFFC0200, iePrev := true, mepc := 0x10014 } = some (.user, true, 0xFFFC0204, 0x10014) := by decide
theorem test_wfi : after 0x10100073 (fun t => (t.waiting, t.pc)) (two 0 0) = some (true, 0x1000) ∧
    after 0x10100073 (fun t => (t.waiting, t.pc)) { two 0 0 with pending := 2, enabled := 2 } = some (false, 0x1004) := by decide
theorem test_pfi : goes 0x10300073 (two 0 0) = some 0x1004 ∧
    after 0x10300073 (fun t => (t.mepc, t.iePrev)) { two 0 0 with pending := 2, enabled := 2 } = some (0x1004, false) := by
  decide
theorem test_privileged : stop 0x10000073 caller = some (.inl .privilegedInUser) ∧
    stop 0x0800018D (two 0 0) = some (.inr (.undescribedInstruction "PALLOC")) := by decide
theorem test_mvseg : after 0x0020818D (fun t => (t.xval .set1 3, t.seg[1])) { two 0xFFFFFFFFFFFF0116 1 with seg := (Vector.replicate 16 0).set 1 0x106 } =
    some (0x106, 0xFFFF0116) ∧ stop 0x0020818D (two 0 16) = some (.inl .segIndexUnspecified) := by decide
theorem test_mvmap :
    after 0x0220818D (fun t => (t.xval .set1 3, t.mapAt 0 0x11)) { two 0x1205 0x11 with pageMap := [(0x11, 0x1FF)] } =
      some (0x1FF, 5) ∧
    stop 0x0220818D (two 0 0x200) = some (.inl .mapSelectorUnspecified) := by decide
theorem test_counters : gets 0xC80011F3 3 { two 0 0 with cycle := 0x123456789ABCDEF0 } = some 0x12345678 ∧
    gets 0xC02011F3 3 { two 0 0 with instret := 7 } = some 7 := by decide

/-! ## One step from reset: the load of a word and its run -/

/-- Boot word `CSRRWI x0, 0x790, 31` (70_reset_and_hazards.md R424): the first step after reset sets `regset` to 0x001F. -/
def booted : State := State.reset.withFetchWord 32 0x790FD073

/-- What a step shows, if a state follows. -/
def stepGets {α : Type} (get : State → α) (s : State) : Option α :=
  match step s with
  | .next t => some (get t)
  | _ => none

theorem test_step_boot : stepGets (fun t => (t.regset, t.pc, t.mode)) booted = some (0x001F, 0xFFFC0104, .machine) := by rfl

/-! ## Witnesses: for each statement that has hypotheses, a concrete state and operands that meet them, clause by clause -/

/-- `two 5 7` with another `regset`. -/
def selecting (r : BitVec 16) : State := { two 5 7 with regset := r }

/-- A waiting hart; source 1 pending and enabled if `p` is 2, interrupts enabled as given. -/
def dozing (p : Word) (ie : Bool) : State := { two 0 0 with waiting := true, pending := p, enabled := 2, ie := ie }

/-- A running hart, the same otherwise. -/
def running (p : Word) (ie : Bool) : State := { two 0 0 with pending := p, enabled := 2, ie := ie }

/-- A hart with a request it would take, in register set 2 or 3 (`r` is 0x002F or 0x003F), waiting or not. -/
def topmost (r : BitVec 16) (waits : Bool) : State :=
  { two 0 0 with waiting := waits, pending := 2, enabled := 2, ie := true, regset := r }

/-- An I/O window of 256 bytes at 0xFF000000. -/
def windowed : State := { two 0 0 with devices := [⟨0xFF000000, 0x100⟩] }

/-- Memory at `pc` holding a word that matches no row. -/
def unlisted : State := { two 0 0 with mem := [(0x1000, 0), (0x1001, 0), (0x1002, 0), (0x1003, 0)] }

/-- ECALL in user mode in the ROM region, which user-mode fetches reach untranslated. -/
def userCall : State := { caller with pc := 0xFFFC0304, ie := false }.withFetchWord 32 0x00000073

theorem witness_StepKeepsInvariant : MachineInv booted ∧ ∃ t, step booted = .next t :=
  ⟨⟨by decide, by decide, by decide, by decide, by decide, by decide, by decide, by decide, BitVec.zero_and, BitVec.zero_and⟩, _, rfl⟩

theorem witness_OperandSelection :
    (31 : Reg) ≠ 0 ∧ [selecting 0x0000, selecting 0x001F, selecting 0x0021, selecting 0x0031].map
      (fun s => if s.regset.getLsbD 0 then s.regset.extractLsb' 4 2 else s.regset.extractLsb' 6 2) = [0, 1, 2, 3] := by decide

theorem witness_IntegerWritesConfined :
    (∃ t, exec (.addi 3 1 5) (two 5 7) = .next t) ∧ (two 5 7).roleSet .rd ≠ some .set0 ∧ (two 5 7).roleSet .rd ≠ some .set2 :=
  ⟨⟨_, rfl⟩, by decide, by decide⟩

theorem witness_DecodeEncode :
    WellFormed (.csrrw 3 0xC00 1) ∧ isSpelling (.csrrw 3 0xC00 1) = false ∧ WellFormed (.csrrw 3 0x340 0) ∧ WellFormed .nop := by
  decide

theorem witness_EncodeDecode : decode 0x00000013 = .ok (.addi 0 0 0) ∧ decode 0xC00011F3 = .ok (.rdcycle 3) := by decide

theorem witness_StepRunsDecoded :
    booted.waiting = false ∧ ¬(booted.ie = true ∧ intRequest booted.boundary = true) ∧
      ∃ bs q, fetchBytes booted.boundary = .ok (bs, q) ∧ decodeBytes bs = .ok (.csrrwi 0 0x790 31) :=
  ⟨rfl, by decide, _, _, rfl, rfl⟩

/-- A translated fetch in user mode, and one that does not translate. -/
theorem witness_FetchReadsAndStops_user :
    (mapped 12 1).pc.extractLsb' 0 2 = 0 ∧
    translateRange ((mapped 12 1).pc.setWidth 32) 4 .fetch (mapped 12 1) = .ok [0xA1000, 0xA1001, 0xA1002, 0xA1003] ∧
    (∀ a ∈ [0xA1000, 0xA1001, 0xA1002, 0xA1003], (mapped 12 1).isDevice a = false ∧ a ∉ (mapped 12 1).stored) ∧
    (∃ a ∈ [0xA1000, 0xA1001, 0xA1002, 0xA1003], a ∈ ({ mapped 12 1 with stored := [0xA1003] } : State).stored) ∧
    translateRange ((mapped 12 6).pc.setWidth 32) 4 .fetch (mapped 12 6) = .error .segPermission :=
  ⟨by decide, rfl, by decide, by decide, rfl⟩

theorem witness_FetchReadsAndStops_reads :
    booted.mode = .machine ∧ booted.pc.extractLsb' 0 2 = 0 ∧
      ∀ k < 4, booted.isDevice (booted.pc.toNat % 2 ^ 32 + k) = false ∧ booted.pc.toNat % 2 ^ 32 + k ∉ booted.stored := by decide

theorem witness_FetchReadsAndStops_misaligned :
    (0x1001 : Word).extractLsb' 0 2 ≠ 0 ∧ (0x1003 : Word).extractLsb' 0 2 ≠ 0 ∧
      fetchInstr { two 0 0 with pc := 0x1002 }.boundary = .error .fetchMisaligned := ⟨by decide, by decide, rfl⟩

theorem witness_FetchReadsAndStops_stored :
    (two 0 0).mode = .machine ∧ (two 0 0).pc.extractLsb' 0 2 = 0 ∧ 3 < 4 ∧
      (two 0 0).pc.toNat % 2 ^ 32 + 3 ∈ ({ two 0 0 with stored := [0x1003] } : State).stored := by decide

theorem witness_FetchReadsAndStops_unlisted :
    fetchBytes unlisted = .ok ([0, 0, 0, 0], unlisted) ∧ decodeBytes [0, 0, 0, 0] = .error .unlistedEncoding := ⟨rfl, by decide⟩

theorem witness_FetchReadsAndStops_step :
    unlisted.waiting = false ∧ unlisted.ie = false ∧ fetchInstr unlisted.boundary = .error .unlistedEncoding := ⟨rfl, rfl, rfl⟩

theorem witness_LoadedWordRuns :
    WellFormed .nop ∧ State.reset.mode = .machine ∧ State.reset.pc.extractLsb' 0 2 = 0 ∧ State.reset.devices = [] ∧
      addressesRising State.reset.stored = true := by decide

theorem witness_WaitingStep :
    (dozing 0 false).waiting = true ∧ (dozing 0 false).boundary.pending &&& (dozing 0 false).boundary.enabled = 0 ∧
    (dozing 2 false).boundary.pending &&& (dozing 2 false).boundary.enabled ≠ 0 ∧ (dozing 2 false).ie = false ∧
    (dozing 2 true).boundary.pending &&& (dozing 2 true).boundary.enabled ≠ 0 ∧ (dozing 2 true).ie = true ∧
    (currentSet (dozing 2 true).regset).toNat < 2 := by decide

/-- The stop's clause in one state, for each of the two register sets that cannot be pushed from. -/
theorem witness_WaitingStep_stop :
    (topmost 0x002F true).waiting = true ∧ (topmost 0x002F true).boundary.pending &&& (topmost 0x002F true).boundary.enabled ≠ 0 ∧
    (topmost 0x002F true).ie = true ∧ ¬(currentSet (topmost 0x002F true).regset).toNat < 2 ∧
    (topmost 0x003F true).waiting = true ∧ (topmost 0x003F true).boundary.pending &&& (topmost 0x003F true).boundary.enabled ≠ 0 ∧
    (topmost 0x003F true).ie = true ∧ ¬(currentSet (topmost 0x003F true).regset).toNat < 2 := by decide

theorem witness_InterruptTaken :
    (running 2 true).waiting = false ∧ (running 2 true).ie = true ∧
    (running 2 true).boundary.pending &&& (running 2 true).boundary.enabled ≠ 0 ∧
    (currentSet (running 2 true).regset).toNat < 2 := by decide

theorem witness_InterruptTaken_stop :
    (topmost 0x002F false).waiting = false ∧ (topmost 0x002F false).boundary.pending &&& (topmost 0x002F false).boundary.enabled ≠ 0 ∧
    (topmost 0x002F false).ie = true ∧ ¬(currentSet (topmost 0x002F false).regset).toNat < 2 ∧
    (topmost 0x003F false).waiting = false ∧ (topmost 0x003F false).boundary.pending &&& (topmost 0x003F false).boundary.enabled ≠ 0 ∧
    (topmost 0x003F false).ie = true ∧ ¬(currentSet (topmost 0x003F false).regset).toNat < 2 := by decide

theorem witness_UpperImmediates : Writable 31 (two 5 7) ∧ Writable 0 (selecting 0x0031) := ⟨.inr ⟨.set1, rfl⟩, .inl rfl⟩

theorem witness_ImmediateArithmetic : readX .rs1 31 (two 5 7) = .ok 0 ∧ readX .rs1 1 (two 5 7) = .ok 5 ∧ Writable 3 (two 5 7) :=
  ⟨rfl, rfl, .inr ⟨.set1, rfl⟩⟩

theorem witness_ImmediateShifts : readX .rs1 1 (two 5 7) = .ok 5 ∧ Writable 3 (two 5 7) := ⟨rfl, .inr ⟨.set1, rfl⟩⟩

theorem witness_RegisterArithmetic :
    readX .rs1 1 (two 5 7) = .ok 5 ∧ readX .rs2 2 (two 5 7) = .ok 7 ∧ Writable 3 (two 5 7) := ⟨rfl, rfl, .inr ⟨.set1, rfl⟩⟩

theorem witness_MnemonicArithmetic :
    readX .rs1 1 (two 5 7) = .ok 5 ∧ readX .rs2 2 (two 5 7) = .ok 7 ∧ Writable 3 (two 5 7) := ⟨rfl, rfl, .inr ⟨.set1, rfl⟩⟩

theorem witness_RegisterShifts :
    readX .rs1 1 (two 5 64) = .ok 5 ∧ readX .rs2 2 (two 5 64) = .ok 64 ∧ Writable 3 (two 5 64) := ⟨rfl, rfl, .inr ⟨.set1, rfl⟩⟩

theorem witness_Jumps : readX .rs1 1 (two 0x3003 0) = .ok 0x3003 ∧ Writable 1 (two 0x3003 0) := ⟨rfl, .inr ⟨.set1, rfl⟩⟩

theorem witness_Branches : readX .rs1 1 (two 5 5) = .ok 5 ∧ readX .rs2 2 (two 5 5) = .ok 5 ∧ readX .rs1 0 (two 5 5) = .ok 0 :=
  ⟨rfl, rfl, rfl⟩

theorem witness_Loads :
    readX .rs1 1 (bytes 0x2000 0) = .ok 0x2000 ∧ Writable 3 (bytes 0x2000 0) ∧
    memRead (effectiveAddress 0x2000 0) 1 (bytes 0x2000 0) = .ok ([0x80], bytes 0x2000 0) ∧
    memRead (effectiveAddress 0x2000 1) 2 (bytes 0x2000 0) = .ok ([0xFF, 0x7F], bytes 0x2000 0) ∧
    memRead (effectiveAddress 0x2000 4) 4 (bytes 0x2000 0) = .ok ([0xEF, 0xCD, 0xAB, 0x89], bytes 0x2000 0) :=
  ⟨rfl, .inr ⟨.set1, rfl⟩, rfl, rfl, rfl⟩

theorem witness_Stores :
    readX .rs1 1 (bytes 0x2000 9) = .ok 0x2000 ∧ readX .rs2 2 (bytes 0x2000 9) = .ok 9 ∧
    translateRange (effectiveAddress 0x2000 0) 1 .store (bytes 0x2000 9) = .ok [0x2000] ∧
    translateRange (effectiveAddress 0x2000 1) 2 .store (bytes 0x2000 9) = .ok [0x2001, 0x2002] ∧
    translateRange (effectiveAddress 0x2000 0) 4 .store (bytes 0x2000 9) = .ok [0x2000, 0x2001, 0x2002, 0x2003] :=
  ⟨rfl, rfl, rfl, rfl, rfl⟩

theorem witness_AccessFaults :
    readX .rs1 1 (mapped 0 0) = .ok 0 ∧ readX .rs2 2 (mapped 0 0) = .ok 0 ∧
    translateRange 0 1 .load (mapped 0 0) = .error .segPermission ∧ translateRange 0 2 .load (mapped 0 0) = .error .segPermission ∧
    translateRange 0 4 .load (mapped 0 0) = .error .segPermission ∧ translateRange 0 1 .store (mapped 0 4) = .error .segPermission ∧
    translateRange 0 2 .store (mapped 0 4) = .error .segPermission ∧
    translateRange 0 4 .store (mapped 0 4) = .error .segPermission := ⟨rfl, rfl, rfl, rfl, rfl, rfl, rfl, rfl⟩

theorem witness_AccessBytes :
    translateRange 0xFFFFFFFF 2 .load (two 0 0) = .ok [0xFFFFFFFF, 0] ∧ (∀ a ∈ [0xFFFFFFFF, 0], (two 0 0).isDevice a = false) ∧
    physical 0xFF0000FF .load windowed = some 0xFF0000FF ∧ windowed.isDevice 0xFF000000 = true ∧
    windowed.isDevice 0xFF0000FF = true ∧ windowed.isDevice 0xFF000100 = false := ⟨rfl, by decide, rfl, rfl, rfl, rfl⟩

/-- Stores into a window: aligned, and unaligned at its upper end. -/
theorem witness_AccessBytes_stores :
    translateRange 0xFF000000 4 .store windowed = .ok [0xFF000000, 0xFF000001, 0xFF000002, 0xFF000003] ∧
    (∃ t, memWrite 0xFF000000 [1, 2, 3, 4] windowed = .ok t) ∧
    (∀ a ∈ [0xFF000000, 0xFF000001, 0xFF000002, 0xFF000003], windowed.isDevice a = true) ∧
    (0xFF000000 : VAddr).toNat % 4 = 0 ∧ translateRange 0xFF0000FD 2 .store windowed = .ok [0xFF0000FD, 0xFF0000FE] ∧
    (∃ t, memWrite 0xFF0000FD [1, 2] windowed = .ok t) ∧ (0xFF0000FD : VAddr).toNat % 2 ≠ 0 :=
  ⟨rfl, ⟨_, rfl⟩, by decide, by decide, rfl, ⟨_, rfl⟩, by decide⟩

theorem witness_StoreThenLoad :
    [1, 2, 3, 4].length ≤ 4 ∧ (∃ t, memWrite 0x2001 [1, 2, 3, 4] (two 0 0) = .ok t) ∧
    translateRange 0x2001 4 .store (two 0 0) = .ok [0x2001, 0x2002, 0x2003, 0x2004] ∧
    translateRange 0x2001 4 .load (two 0 0) = .ok [0x2001, 0x2002, 0x2003, 0x2004] ∧
    ∀ a ∈ [0x2001, 0x2002, 0x2003, 0x2004], (two 0 0).isWritable a = true := ⟨by decide, ⟨_, rfl⟩, rfl, rfl, by decide⟩

theorem witness_MachineTranslation : (two 0 0).mode = .machine := rfl

/-- Data access: a reserved selector, a missing right, and the linear address in the map, beyond it and in the top region. -/
theorem witness_UserTranslation_data :
    (mapped 0 6).mode = .user ∧ (0x80000000 : VAddr).toNat / 2 ^ 28 = (8 : Fin 16).val ∧
    (0xFFFFFFFF : VAddr).toNat / 2 ^ 28 = (15 : Fin 16).val ∧ (0x7FFFFFFF : VAddr).toNat / 2 ^ 28 = (7 : Fin 16).val ∧
    (mapped 0 4).seg[0].getLsbD 1 = false ∧ (mapped 0 6).seg[0].getLsbD 2 = true ∧ (mapped 0 6).seg[0].getLsbD 1 = true ∧
    (BitVec.ofNat 44 (0x0FFFFFFF + 0 * 65536)).toNat < 2 ^ 28 ∧
    2 ^ 28 ≤ (BitVec.ofNat 44 (0x10000042 + 0x10 * 65536)).toNat ∧
    (BitVec.ofNat 44 (0xB0000010 + 0x4F00 * 65536)).toNat / 2 ^ 24 = 0xFF := by decide

/-- Fetch: the bypass and both sides of its boundary, and the four code segment registers' rights. -/
theorem witness_UserTranslation_fetch :
    (0xFF000000 : VAddr).toNat / 2 ^ 24 = 0xFF ∧ (0xFEFFFFFF : VAddr).toNat / 2 ^ 24 ≠ 0xFF ∧
    (15 : Fin 16).val = 12 + (0xFEFFFFFF : VAddr).toNat / 2 ^ 30 ∧ (12 : Fin 16).val = 12 + (0 : VAddr).toNat / 2 ^ 30 ∧
    (mapped 15 6).seg[15].getLsbD 0 = false ∧ (mapped 12 1).seg[12].getLsbD 0 = true := by decide

theorem witness_LowSixteenBitsPass :
    physical 0x00012345 .load (mapped 0 6) = some 0x000B2345 ∧
    translateRange 0x0000FFFF 2 .load (mapped 0 6) = .ok [0xAFFFF, 0xB0000] := ⟨rfl, rfl⟩

theorem witness_FloatArithmetic : roundingMode 7 (floats 0 0) = .ok .nearestEven ∧ isNaN 0x7FC00000 = true := ⟨rfl, rfl⟩

theorem witness_RoundingModes :
    [0, 1, 2, 3, 4, 5, 6].map (fun rm : BitVec 3 => decide (4 < (if rm = 7 then (two 0 0).frm else rm).toNat)) =
      [false, false, false, false, false, true, true] ∧
    (if (7 : BitVec 3) = 7 then ({ two 0 0 with frm := 7 } : State).frm else 7) = 7 := by decide

theorem witness_FloatMinMax :
    isNaN 0xFF800000 = false ∧ isNaN 0x80000001 = false ∧ fpValue 0xFF800000 < fpValue 0x80000001 ∧
      fpValue 0x80000001 < fpValue 0 := by decide

theorem witness_FloatSquareRoot :
    (0x80000000 : Tetra).extractLsb' 0 31 = 0 ∧ isNaN 0x80000001 = false ∧ fpValue 0x80000001 < fpValue 0 ∧
      roundingMode 4 (floats 0 0) = .ok .nearestAway := ⟨by decide, by decide, by decide, rfl⟩

/-- 4.0 is the number 2^151 in units of 2^-149, its root 2.0 the number 2^150. -/
theorem witness_FloatSquareRoot_exact :
    2 ^ 151 ≠ 0 ∧ fpValue 0x40800000 = (((2 ^ 151 : Nat) : Int) : WithTop Int) ∧ 2 ^ 150 * 2 ^ 150 = 2 ^ 151 * 2 ^ 149 ∧
    fpValue 0x40000000 = (((2 ^ 150 : Nat) : Int) : WithTop Int) := by decide

theorem witness_FloatCompares : Writable 3 (floats 0 0x80000000) := .inr ⟨.set1, rfl⟩

theorem witness_FloatConversions :
    roundingMode 1 (floats 0 0) = .ok .towardZero ∧ Writable 3 (floats 0 0) ∧ readX .rs1 1 (floats 0 0) = .ok 0 :=
  ⟨rfl, .inr ⟨.set1, rfl⟩, rfl⟩

/-- Integers at the ends of the two ranges: -2^31, 2^31 - 128, 0, 2^32 - 256. -/
theorem witness_FloatConversions_exact :
    fpValue 0xCF000000 = ((-2 ^ 31 * 2 ^ 149 : Int) : WithTop Int) ∧ fpValue 0x4EFFFFFF = (((2 ^ 31 - 128) * 2 ^ 149 : Int) : WithTop Int) ∧
    fpValue 0x80000000 = ((0 * 2 ^ 149 : Int) : WithTop Int) ∧ fpValue 0x4F7FFFFF = (((2 ^ 32 - 256) * 2 ^ 149 : Int) : WithTop Int) := by
  decide

theorem witness_FloatMoves : Writable 3 (two 5 7) ∧ readX .rs1 1 (two 5 7) = .ok 5 := ⟨.inr ⟨.set1, rfl⟩, rfl⟩

theorem witness_EnvironmentCalls :
    (currentSet caller.regset).toNat < 2 ∧ caller.mode = .user ∧ ¬(currentSet (selecting 0x002F).regset).toNat < 2 ∧
      ¬(currentSet (selecting 0x003F).regset).toNat < 2 ∧ (selecting 0x001F).mode = .machine := by decide

theorem witness_CauseCodesDistinct : causeCode .ecall .user = causeCode .ecall .user := rfl

theorem witness_ReturnFromException : (two 0 0).mode = .machine := rfl

theorem witness_TrapThenReturn :
    (∃ t, takeTrap .ecall 0x10010 caller = .next t) ∧ ∃ t, takeTrap (.interrupt 63) 0x1000 (two 0 0) = .next t :=
  ⟨⟨_, rfl⟩, _, rfl⟩

theorem witness_WaitForInterrupt :
    (running 0 false).mode = .machine ∧ (running 0 false).pending &&& (running 0 false).enabled = 0 ∧
    (running 2 false).pending &&& (running 2 false).enabled ≠ 0 ∧ (running 2 false).ie = false ∧
    (running 2 true).pending &&& (running 2 true).enabled ≠ 0 ∧ (running 2 true).ie = true ∧
    (currentSet (running 2 true).regset).toNat < 2 := by decide

/-- The stop's clause of WFI and of PFI in one state. -/
theorem witness_WaitForInterrupt_stop :
    (topmost 0x002F false).mode = .machine ∧ (topmost 0x002F false).pending &&& (topmost 0x002F false).enabled ≠ 0 ∧
    (topmost 0x002F false).ie = true ∧ ¬(currentSet (topmost 0x002F false).regset).toNat < 2 ∧
    (topmost 0x003F false).mode = .machine ∧ (topmost 0x003F false).pending &&& (topmost 0x003F false).enabled ≠ 0 ∧
    (topmost 0x003F false).ie = true ∧ ¬(currentSet (topmost 0x003F false).regset).toNat < 2 := by decide

theorem witness_PollForInterrupt :
    (running 0 true).mode = .machine ∧ (running 0 true).pending &&& (running 0 true).enabled = 0 ∧
    (running 2 false).mode = .machine ∧ (running 2 false).pending &&& (running 2 false).enabled ≠ 0 ∧
    (currentSet (running 2 false).regset).toNat < 2 ∧ caller.mode = .user := by decide

theorem witness_SegmentSwap :
    (two 5 16).mode = .machine ∧ readX .rs2 2 (two 5 16) = .ok 16 ∧ 15 < (16 : Word).toNat ∧
    readX .rs2 2 (two 5 15) = .ok 15 ∧ (15 : Word).toNat = (15 : Fin 16).val ∧ readX .rs1 1 (two 5 15) = .ok 5 ∧
    Writable 3 (two 5 15) := ⟨rfl, rfl, by decide, rfl, rfl, rfl, .inr ⟨.set1, rfl⟩⟩

theorem witness_MapSwap :
    (two 5 0xF01FF).mode = .machine ∧ readX .rs2 2 (two 5 0xF01FF) = .ok 0xF01FF ∧ readX .rs1 1 (two 5 0xF01FF) = .ok 5 ∧
    (0x100000 : Word).toNat / 2 ^ 20 ≠ 0 ∧ (0x200 : Word).toNat / 2 ^ 9 % 2 ^ 7 ≠ 0 ∧
    (0x8000 : Word).toNat / 2 ^ 9 % 2 ^ 7 ≠ 0 ∧ (0xF01FF : Word).toNat / 2 ^ 20 = 0 ∧
    (0xF01FF : Word).toNat / 2 ^ 9 % 2 ^ 7 = 0 ∧ Writable 3 (two 5 0xF01FF) ∧ PageMap.wf (two 5 0xF01FF).pageMap = true :=
  ⟨rfl, rfl, rfl, by decide, by decide, by decide, by decide, by decide, .inr ⟨.set1, rfl⟩, rfl⟩

theorem witness_UndescribedStop : undescribedName (.sxx 2 1 4 2 6) = some "SxX" ∧ (two 0 0).mode = .machine := ⟨rfl, rfl⟩

theorem witness_MachineOnlyInUser :
    isMachineOnly .eret = true ∧ isMachineOnly (.mvmap 3 1 2) = true ∧ isMachineOnly (.palloc 3) = true ∧ caller.mode = .user := by
  decide

theorem witness_CounterReads : Writable 3 (two 0 0) := .inr ⟨.set1, rfl⟩

theorem witness_CsrValues :
    (two 0 0).mode = .machine ∧ mieBit timerSource = mieBit timerSource ∧ mieBit timerSource < 64 := ⟨rfl, rfl, mieBit_timer⟩

theorem witness_CsrInstructions :
    csrAccess 0x340 (two 5 7) = .ok .mscratch ∧ csrWritable .mscratch = true ∧ readX .rs1 1 (two 5 7) = .ok 5 ∧
      Writable 3 (two 5 7) ∧ (1 : Reg) ≠ 0 ∧ (31 : BitVec 5) ≠ 0 := ⟨rfl, rfl, rfl, .inr ⟨.set1, rfl⟩, by decide, by decide⟩

theorem witness_CsrStops :
    (0x7C0 : BitVec 12) ∉ ([0x001, 0x002, 0x003, 0xC00, 0xC01, 0xC02, 0xC80, 0xC81, 0xC82] : List (BitVec 12)) ∧
    (0x7C0 : BitVec 12) ∉ ([0xF00, 0xF01, 0xF10, 0x300, 0x301, 0x304, 0x321, 0x701, 0x340, 0x341, 0x342, 0x343, 0x344, 0x181,
      0x790] : List (BitVec 12)) ∧
    caller.mode = .user ∧ (two 5 7).mode = .machine ∧ readX .rs1 1 (two 5 7) = .ok 5 ∧ (1 : Reg) ≠ 0 ∧ (31 : BitVec 5) ≠ 0 ∧
    Writable 3 (two 5 7) := ⟨by decide, by decide, rfl, rfl, rfl, by decide, by decide, .inr ⟨.set1, rfl⟩⟩

theorem witness_SequentialFlow : movesPc (.lw 3 1 0) = false ∧ ∃ t, exec (.lw 3 1 0) (bytes 0x2000 0) = .next t := ⟨rfl, _, rfl⟩

theorem witness_FlagsAccrue : isCsrInstr (.fdiv 3 1 2 0) = false ∧ ∃ t, exec (.fdiv 3 1 2 0) (floats 0 0) = .next t := ⟨rfl, _, rfl⟩

theorem witness_OnlyStoresWriteMemory : isStore (.lw 3 1 0) = false ∧ ∃ t, exec (.lw 3 1 0) (bytes 0x2000 0) = .next t :=
  ⟨rfl, _, rfl⟩

theorem witness_OnlyStoresWriteMemory_window :
    windowed.isDevice 0xFF000000 = true ∧ ∃ t, step (windowed.withFetchWord 32 0x0020A023) = .next t := ⟨rfl, _, rfl⟩

theorem witness_UserKeepsGuarded : caller.mode = .user ∧ ∃ t, exec (.addi 3 1 5) caller = .next t := ⟨rfl, _, rfl⟩

theorem witness_ModeChanges :
    userCall.mode = .user ∧ (∃ t, step userCall = .next t ∧ t.mode = .machine) ∧
    (State.reset.withFetchWord 32 0x10000073).mode = .machine ∧
    ∃ t, step (State.reset.withFetchWord 32 0x10000073) = .next t ∧ t.mode = .user :=
  ⟨rfl, ⟨_, rfl, rfl⟩, rfl, _, rfl, rfl⟩

end Sys2Proof.Tests
end

section
/-! PROOFS. 10_state.md: the registers that are always zero (R22, R31). The reads are laws of the register operations; the two
discarded writes are stated here. -/

namespace Sys2Proof.Machine

/-- A write to x0 is discarded whatever set the destination role selects, set 3 too (10_state.md R22). -/
@[simp] theorem writeX_zero (v : Word) (s : State) : writeX 0#5 v s = .ok s := if_pos rfl

/-- A write to f0 is discarded (10_state.md R31). -/
@[simp] theorem State.setF_zero (s : State) (r : Tetra) : s.setF 0#5 r = s := if_pos rfl

/-- Settles O4: the reads of x0 and f0, and the discarded writes to them. -/
theorem zeroRegisters : Obligations.ZeroRegisters := by
  intro s
  exact ⟨s.xval_zero, fun role => readX_zero role s, fun v => writeX_zero v s, s.fval_zero, s.setF_zero⟩

end Sys2Proof.Machine
end

section
/-! PROOFS. 40_integer.md: a row over two registers reads both and finishes with its result (R160); a word of major opcode 51
with funct7 = 0 is told apart by funct3 alone (30_encoding.md R128). -/

namespace Sys2Proof.Machine

/-- Major opcode 51 with funct7 = 0 leaves the choice of the row to funct3 (30_encoding.md R128). -/
theorem decode_aluBase (rd rs1 rs2 : Reg) (f3 : BitVec 3) :
    decode (pack 0 rs2 rs1 f3 rd 51) = decodeAluBase (pack 0 rs2 rs1 f3 rd 51) := by
  simp [decode, decodeAlu]

theorem regImm_of_read {rd rs1 : Reg} {f : Word → Word} {s : State} {a : Word} (ha : readX .rs1 rs1 s = .ok a) :
    regImm rd rs1 f s = finishX rd (f a) s := by
  simp [regImm, ha, orFault]

theorem regReg_of_reads {rd rs1 rs2 : Reg} {f : Word → Word → Word} {s : State} {a b : Word}
    (ha : readX .rs1 rs1 s = .ok a) (hb : readX .rs2 rs2 s = .ok b) : regReg rd rs1 rs2 f s = finishX rd (f a b) s := by
  simp [regReg, ha, hb, orFault]

/-- An instruction that ends by writing a writable destination does that and nothing else. -/
theorem YieldsX.of_finishX {i : Instr} {s : State} {rd : Reg} {v : Word} (he : exec i s = finishX rd v s)
    (hw : Writable rd s) : YieldsX i s rd v := by
  obtain ⟨t, ht, h⟩ := finishX_next (v := v) hw
  exact ⟨t, he.trans ht, h⟩

/-- A row over two registers with funct7 = 0 puts its operation's result on both operands into the destination. -/
theorem RunsX.of_aluBase {i : Instr} {f3 : BitVec 3} {rd rs1 rs2 : Reg} {f : Word → Word → Word} {s : State} {a b : Word}
    (ha : readX .rs1 rs1 s = .ok a) (hb : readX .rs2 rs2 s = .ok b) (hw : Writable rd s)
    (hd : decodeAluBase (pack 0 rs2 rs1 f3 rd 51) = .ok i) (he : exec i s = regReg rd rs1 rs2 f s) :
    RunsX (pack 0 rs2 rs1 f3 rd 51) i s rd (f a b) :=
  ⟨(decode_aluBase rd rs1 rs2 f3).trans hd, .of_finishX (he.trans (regReg_of_reads ha hb)) hw⟩

/-- The signed comparison as a result is that of the two's-complement values (R164, R176). -/
theorem boolWord_slt (a b : Word) : boolWord (a.slt b) = if a.toInt < b.toInt then 1 else 0 := by
  simp [boolWord, BitVec.slt]

/-- Settles O19: the five register rows, each by its funct3, and MOV as a copy of Rs1. -/
theorem registerArithmetic : Obligations.RegisterArithmetic := by
  refine ⟨fun rd rs1 rs2 s a b ha hb hw => ?_, fun rd rs1 s a ha hw => ?_⟩
  · rw [← boolWord_slt]
    refine ⟨?add, ?slt, ?xor, ?or, ?and⟩
    case add => exact .of_aluBase ha hb hw (by simp [decodeAluBase]) rfl
    case slt => exact .of_aluBase (f := fun a b => boolWord (a.slt b)) ha hb hw (by simp [decodeAluBase]) rfl
    case xor => exact .of_aluBase ha hb hw (by simp [decodeAluBase]) rfl
    case or => exact .of_aluBase ha hb hw (by simp [decodeAluBase]) rfl
    case and => exact .of_aluBase ha hb hw (by simp [decodeAluBase]) rfl
  · exact .of_finishX (regImm_of_read ha) hw

end Sys2Proof.Machine
end

section
/-! PROOFS. 41_control_flow.md: a jump links and goes to a target whose two low bits are zero (R201, R202); a branch chooses
between its displacement and the next instruction and changes `pc` alone (R203 to R208). -/

namespace Sys2Proof.Machine

/-! ## Displacements -/

theorem branchDisplacement_append (off : BitVec 12) : branchDisplacement off = (off ++ (0 : BitVec 1)).signExtend 64 :=
  congrArg sext64 (joinBits_append off (0 : BitVec 1))

theorem jumpDisplacement_append (off : BitVec 20) : jumpDisplacement off = (off ++ (0 : BitVec 1)).signExtend 64 :=
  congrArg sext64 (joinBits_append off (0 : BitVec 1))

/-! ## Jumps -/

theorem WroteX.setPc {rd : Reg} {v : Word} {s t : State} (h : WroteX rd v s t) (target : Word) :
    WroteX rd v s (t.setPc target) := by
  have hx : IntegerSame t (t.setPc target) := .of_sets rfl rfl rfl
  obtain ⟨hrd, hother⟩ := h
  exact ⟨fun b hn hb => (hx b rd).trans (hrd b hn hb), fun c i hn => (hx c i).trans (hother c i hn)⟩

theorem ControlSame.setPc {s t : State} (h : ControlSame s t) (target : Word) : ControlSame s (t.setPc target) where
  outside := { h.outside with }
  guarded := { h.guarded with }
  trap    := { h.trap with }
  frm     := h.frm

theorem MemorySame.setPc {s t : State} (h : MemorySame s t) (target : Word) : MemorySame s (t.setPc target) :=
  { h with }

/-- An instruction that ends by linking in a writable destination and jumping does that and nothing else. -/
theorem YieldsLink.of_jumpLink {i : Instr} {s : State} {rd : Reg} {target : Word} (he : exec i s = jumpLink rd target s)
    (hw : Writable rd s) : YieldsLink i s rd (target.extractLsb' 2 62 ++ (0 : BitVec 2)) := by
  obtain ⟨u, hu⟩ := writeX_total (v := s.pc + 4) hw
  obtain ⟨-, hfreg, hflags, -, -, hcontrol, hmem⟩ := writeX_frame hu
  have hjump : jumpLink rd target s = .next (u.setPc (clearLow2 target)) := by rw [jumpLink, hu, orFault_ok]
  exact ⟨_, he.trans hjump, clearLow2_append target, (writeX_wrote hu).setPc _, .of_file hfreg, hflags, hcontrol.setPc _,
    hmem.setPc _⟩

theorem execJalr_of_read {rd rs1 : Reg} {imm : BitVec 12} {s : State} {a : Word} (ha : readX .rs1 rs1 s = .ok a) :
    execJalr rd rs1 imm s = jumpLink rd (a + imm.signExtend 64) s := by
  simp [execJalr, ha, sext64]

theorem execRet_of_read {s : State} {a : Word} (ha : readX .rs1 1 s = .ok a) :
    execRet s = .next (s.setPc (a.extractLsb' 2 62 ++ (0 : BitVec 2))) := by
  rw [execRet, ha, orFault_ok, clearLow2_append]

/-- Settles O22: JAL, JALR and CALL are one link-and-jump with a target of their own; RET jumps without a link. -/
theorem jumps : Obligations.Jumps := by
  refine ⟨fun rd off s hw => ⟨by simp [decode], ?jal⟩, fun rd rs1 imm s a ha hw => ⟨by simp [decode, listedIf], ?jalr⟩,
    fun off s hw => ?call, fun s a ha => execRet_of_read ha⟩
  case jal => exact jumpDisplacement_append off ▸ .of_jumpLink rfl hw
  case jalr => exact .of_jumpLink (execJalr_of_read ha) hw
  case call => exact jumpDisplacement_append off ▸ .of_jumpLink rfl hw

/-! ## Branches -/

/-- Major opcode 99 is the branches (30_encoding.md R125). -/
theorem decode_branch (off : BitVec 12) (rs2 rs1 : Reg) (f3 : BitVec 3) :
    decode (packB off rs2 rs1 f3 99) = decodeBranch (packB off rs2 rs1 f3 99) := by
  simp [decode]

theorem branchOn_of_reads {rs1 rs2 : Reg} {off : BitVec 12} {c : Word → Word → Bool} {s : State} {a b : Word}
    (ha : readX .rs1 rs1 s = .ok a) (hb : readX .rs2 rs2 s = .ok b) : branchOn rs1 rs2 off c s = branchIf (c a b) off s := by
  simp [branchOn, ha, hb]

/-- An instruction that ends by branching on a condition goes to the displacement where it holds and to the next instruction
where it does not, and changes nothing else. -/
theorem YieldsPc.of_branchIf {i : Instr} {s : State} {c : Bool} {off : BitVec 12} {p : Prop} [Decidable p]
    (he : exec i s = branchIf c off s) (hc : c = true ↔ p) :
    YieldsPc i s (if p then s.pc + (off ++ (0 : BitVec 1)).signExtend 64 else s.pc + 4) := by
  have hnext : branchIf c off s = .next (s.setPc (if c then s.pc + branchDisplacement off else s.pc + 4)) :=
    congrArg _ (branchIf_cases rfl)
  simp only [hc, branchDisplacement_append] at hnext
  exact he.trans hnext

/-- A branch row compares the two registers it reads by its condition. -/
theorem RunsPc.of_branchOn {i : Instr} {f3 : BitVec 3} {rs1 rs2 : Reg} {off : BitVec 12} {c : Word → Word → Bool} {s : State}
    {a b : Word} {p : Prop} [Decidable p] (ha : readX .rs1 rs1 s = .ok a) (hb : readX .rs2 rs2 s = .ok b)
    (hd : decodeBranch (packB off rs2 rs1 f3 99) = .ok i) (he : exec i s = branchOn rs1 rs2 off c s) (hc : c a b = true ↔ p) :
    RunsPc (packB off rs2 rs1 f3 99) i s (if p then s.pc + (off ++ (0 : BitVec 1)).signExtend 64 else s.pc + 4) :=
  ⟨(decode_branch off rs2 rs1 f3).trans hd, .of_branchIf (he.trans (branchOn_of_reads ha hb)) hc⟩

theorem execBeqz_of_read {rs1 : Reg} {off : BitVec 12} {s : State} {a : Word} (ha : readX .rs1 rs1 s = .ok a) :
    execBeqz rs1 off s = branchIf (a == 0) off s := by
  simp [execBeqz, ha]

/-- Settles O23: the six rows, each by its funct3 and its comparison, and the three spellings. -/
theorem branches : Obligations.Branches := by
  refine ⟨fun rs1 rs2 off s a b ha hb => ⟨?beq, ?bne, ?blt, ?bge, ?bltu, ?bgeu, ?ble⟩, fun rs1 off s a ha => ?beqz,
    fun off s => ?bra⟩
  case beq => exact .of_branchOn ha hb (by simp [decodeBranch]) rfl beq_iff_eq
  case bne => exact .of_branchOn ha hb (by simp [decodeBranch]) rfl bne_iff_ne
  case blt => exact .of_branchOn ha hb (by simp [decodeBranch]) rfl BitVec.slt_iff_toInt_lt
  case bge => exact .of_branchOn ha hb (by simp [decodeBranch]) rfl BitVec.sle_iff_toInt_le
  case bltu => exact .of_branchOn ha hb (by simp [decodeBranch]) rfl BitVec.ult_iff_lt
  case bgeu => exact .of_branchOn ha hb (by simp [decodeBranch]) rfl BitVec.ule_iff_le
  case ble => exact .of_branchIf (branchOn_of_reads ha hb) BitVec.sle_iff_toInt_le
  case beqz => exact .of_branchIf (execBeqz_of_read ha) beq_iff_eq
  case bra => exact YieldsPc.of_branchIf (p := True) rfl (iff_of_true rfl trivial)

end Sys2Proof.Machine
end

section
/-! PROOFS. 43_floating_point.md: sign injection is concatenation of one sign bit and bits 30..0 (R262 to R264); an instruction
that ends by moving a result into a floating-point register sets no flag; a word of major opcode 83 is told apart by funct5, and
the rows of funct5 = 16 by funct3 (30_encoding.md R129). -/

namespace Sys2Proof.Machine

/-! ## Moves without flags -/

/-- Accruing no flag changes nothing (43_floating_point.md R253). -/
@[simp] theorem State.accrue_zero (s : State) : s.accrue 0#5 = s :=
  congrArg (fun fl => { s with fflags := fl }) BitVec.or_zero

/-- A move is a result that accrues no flag. -/
theorem moveF_eq_finishF (frd : Reg) (r : Tetra) (s : State) : moveF frd r s = finishF frd r 0 s := by
  simp [moveF, finishF]

/-- An instruction that ends by moving a result into a floating-point register does that and nothing else. -/
theorem YieldsF.of_moveF {i : Instr} {s : State} {frd : Reg} {r : Tetra} (he : exec i s = moveF frd r s) :
    YieldsF i s frd r 0 := by
  obtain ⟨t, ht, h⟩ := finishF_next frd r 0 s
  exact ⟨t, (he.trans (moveF_eq_finishF frd r s)).trans ht, h⟩

/-! ## Decoding -/

/-- Major opcode 83 with fmt = 00 leaves the choice of the row to funct5 (30_encoding.md R129). -/
theorem decode_float (f5 : BitVec 5) (rs2 rs1 rd : Reg) (f3 : BitVec 3) :
    decode (packF f5 rs2 rs1 f3 rd) = decodeFloatS (packF f5 rs2 rs1 f3 rd) := by
  simp [decode, decodeFloat]

/-- A floating-point row that moves its result runs without a flag. -/
theorem RunsF.of_moveF {i : Instr} {f5 : BitVec 5} {f3 : BitVec 3} {frd rs1 rs2 : Reg} {s : State} {r : Tetra}
    (hd : decodeFloatS (packF f5 rs2 rs1 f3 frd) = .ok i) (he : exec i s = moveF frd r s) :
    RunsF (packF f5 rs2 rs1 f3 frd) i s frd r :=
  ⟨(decode_float f5 rs2 rs1 frd f3).trans hd, .of_moveF he⟩

/-! ## The sign bit of a pattern -/

/-- The sign of a pattern is its bit 31 (43_floating_point.md R250). -/
theorem ofBool_msb (a : Tetra) : BitVec.ofBool a.msb = a.extractLsb' 31 1 := by
  ext i hi
  obtain rfl : i = 0 := by omega
  simp [BitVec.msb_eq_getLsbD_last]

/-- `{sign, a[30:0]}` is concatenation (43_floating_point.md R262). -/
theorem withSign_append (sign : Bool) (a : Tetra) : withSign sign a = BitVec.ofBool sign ++ a.extractLsb' 0 31 :=
  joinBits_append (BitVec.ofBool sign) (a.extractLsb' 0 31)

/-- FNEG's exclusive or flips the sign and keeps bits 30..0 (43_floating_point.md R263). -/
theorem xor_signMask (a : Tetra) : a ^^^ 0x80000000 = ~~~(a.extractLsb' 31 1) ++ a.extractLsb' 0 31 :=
  calc a ^^^ 0x80000000
    _ = (a.extractLsb' 31 1 ++ a.extractLsb' 0 31) ^^^ (BitVec.allOnes 1 ++ 0#31) := by
      rw [BitVec.extractLsb'_append_extractLsb']; rfl
    _ = ~~~(a.extractLsb' 31 1) ++ a.extractLsb' 0 31 := by
      rw [BitVec.xor_append, BitVec.xor_allOnes, BitVec.xor_zero]

/-- FABS's conjunction clears the sign and keeps bits 30..0 (43_floating_point.md R264). -/
theorem and_magnitudeMask (a : Tetra) : a &&& 0x7FFFFFFF = (0 : BitVec 1) ++ a.extractLsb' 0 31 :=
  calc a &&& 0x7FFFFFFF
    _ = (a.extractLsb' 31 1 ++ a.extractLsb' 0 31) &&& (0#1 ++ BitVec.allOnes 31) := by
      rw [BitVec.extractLsb'_append_extractLsb']; rfl
    _ = (0 : BitVec 1) ++ a.extractLsb' 0 31 := by
      rw [BitVec.and_append, BitVec.and_zero, BitVec.and_allOnes]; rfl

/-- Settles O37: each row is a move of one sign bit above bits 30..0 of FRs1; FNEG and FABS do the same by a mask. -/
theorem signInjection : Obligations.SignInjection := by
  intro frd frs1 frs2 s a b
  rw [← xor_signMask a, ← and_magnitudeMask a, ← ofBool_msb a, ← ofBool_msb b, BitVec.not_ofBool,
    BitVec.ofBool_xor_ofBool]
  simp only [← withSign_append]
  refine ⟨?fsgnj, ?fsgnjn, ?fsgnjx, ?fmov, ?fneg, ?fabs⟩
  case fsgnj => exact .of_moveF (by simp [decodeFloatS]) rfl
  case fsgnjn => exact .of_moveF (by simp [decodeFloatS]) rfl
  case fsgnjx => exact .of_moveF (by simp [decodeFloatS]) rfl
  case fmov => exact .of_moveF rfl
  case fneg => exact .of_moveF rfl
  case fabs => exact .of_moveF rfl

end Sys2Proof.Machine
end

section
/-! PROOFS. 70_reset_and_hazards.md: the state after reset (R420). -/

namespace Sys2Proof.Machine

/-- Settles O1: each of the four fields of `State.reset` evaluates to the value of R420. -/
theorem resetState : Obligations.ResetState := ⟨rfl, rfl, rfl, rfl⟩

end Sys2Proof.Machine
end

section
/-! PROOFS. 30_encoding.md: decoding and encoding agree, by the families of the format table (R122 to R132), each told apart by
its major opcode. -/

namespace Sys2Proof.Machine

/-! ## From an instruction to its word and back -/

/-- The word of FENCE decodes to it, whatever its two sets (30_encoding.md R130). -/
theorem decode_packFence (pred succ : BitVec 4) : decode (packFence pred succ) = .ok (.fence pred succ) := by
  obtain ⟨hhigh, hpred, hsucc⟩ := fence_fields pred succ
  have hword : opcodeOf (packFence pred succ) = 0x0F ∧ funct3Of (packFence pred succ) = 0 ∧
      rs1Of (packFence pred succ) = 0 ∧ rdOf (packFence pred succ) = 0 := by simp [packFence]
  obtain ⟨hop, h3, h1, hd⟩ := hword
  simp [decode, decodeFence, listedIf, hop, h3, h1, hd, hhigh, hpred, hsucc]

/-- Only CSRRW with Rs1 = x0 on a counter number loses its word, to the counter-read row (30_encoding.md R142). -/
theorem decode_csrrw {rd rs1 : Reg} {csr : BitVec 12} (h : WellFormed (.csrrw rd csr rs1)) :
    decode (packI csr rs1 1 rd 0x73) = .ok (.csrrw rd csr rs1) := by
  have hrow : decode (packI csr rs1 1 rd 0x73) = decodeCsrrw (packI csr rs1 1 rd 0x73) := by simp [decode, decodeSystem]
  rw [hrow, decodeCsrrw, rs1Of_packI, immI_packI, rdOf_packI]
  split
  · split
    case h_7 => rfl
    all_goals simp [WellFormed, Instr.wf, isCounterNumber] at h
  · rfl

/-- The decoder reads a well-formed instruction back from its word, a spelling as what it stands for. -/
theorem decode_encode {i : Instr} (h : WellFormed i) : decode (encode i) = .ok i.core := by
  cases i with
  | lui | auipc | jal | call => simp [encode, decode, Instr.core]
  | jalr | ret | flw | fsw => simp [encode, decode, listedIf, Instr.core]
  | beq | bne | blt | bge | bltu | bgeu | bra | beqz | ble => simp [encode, decode, decodeBranch, Instr.core]
  | lb | lh | lw | lbu | lhu => simp [encode, decode, decodeLoad, Instr.core]
  | sb | sh | sw => simp [encode, decode, decodeStore, Instr.core]
  | addi | slti | sltui | xori | ori | andi | slli | srli | srai | nop | ldi =>
    simp [encode, decode, decodeAluImm, listedIf, Instr.core]
  | add | sll | slt | sltu | xor | srl | or | and | mov => simp [encode, decode, decodeAlu, decodeAluBase, Instr.core]
  | sub | sra | mul => simp [encode, decode, decodeAlu, listedIf, Instr.core]
  | fadd | fsub | fmul | fdiv | fmin | fmax | fsqrt | fsgnj | fsgnjn | fsgnjx | feq | flt | fle | fcvt_w_s | fcvt_wu_s
  | fcvt_s_w | fcvt_s_wu | fmv_x_s | fclass | fmv_s_x | fmov | fneg | fabs =>
    simp [encode, decode_float, decodeFloatS, listedIf, Instr.core]
  | fence pred succ => exact decode_packFence pred succ
  | fence_i => simp [encode, decode, decodeFence, listedIf, Instr.core]
  | ecall | ebreak | eret | wfi | pfi => simp [encode, decode, decodeSystem, decodeSystem0, listedIf, Instr.core]
  | rdcycle | rdcycleh | rdtime | rdtimeh | rdinstret | rdinstreth =>
    simp [encode, decode, decodeSystem, decodeCsrrw, Instr.core]
  | csrrw => exact decode_csrrw h
  | csrrs | csrrc | csrrwi | csrrsi | csrrci => simp [encode, decode, decodeSystem, Instr.core]
  | mvseg | mvmap | palloc | pfree | pfreeall | setto | getto | getzl | decto | insrdy | rmvrdy | getrdy | insiof | rmviof
  | nxtiof | prviof => simp [encode, decode, decodeCustom, decodeCustom0, listedIf, Instr.core]
  | lxx | sxx => simp [encode, decode, decodeCustom, Instr.core]

/-- The four bytes of a word decode as the word (30_encoding.md R120). -/
theorem decodeBytes_instrBytes (w : Tetra) : decodeBytes (instrBytes w) = decode w :=
  congrArg decode (leValue_leBytes w)

/-- A real row stands for itself (30_encoding.md R151). -/
theorem core_of_not_spelling {i : Instr} (h : isSpelling i = false) : i.core = i := by
  cases i with
  | call | ret | bra | beqz | ble | nop | ldi | mov | fmov | fneg | fabs => cases h
  | _ => rfl

/-- Settles O8: each family decodes to its row by its fixed fields. -/
theorem decodeEncode : Obligations.DecodeEncode := fun i h =>
  ⟨decode_encode h, (decodeBytes_instrBytes (encode i)).trans (decode_encode h), core_of_not_spelling⟩

/-! ## From a word to its instruction and back -/

section Fields

variable {w : Tetra} {f7 : BitVec 7} {f3 : BitVec 3} {op : BitVec 7} {rd rs1 rs2 : Reg} {imm : BitVec 12}

theorem pack_of_fields (h7 : funct7Of w = f7) (h2 : rs2Of w = rs2) (h1 : rs1Of w = rs1) (h3 : funct3Of w = f3)
    (hd : rdOf w = rd) (ho : opcodeOf w = op) : pack f7 rs2 rs1 f3 rd op = w := by
  subst h7 h2 h1 h3 hd ho
  exact pack_fields w

theorem packI_of_fields (hi : immI w = imm) (h1 : rs1Of w = rs1) (h3 : funct3Of w = f3) (hd : rdOf w = rd)
    (ho : opcodeOf w = op) : packI imm rs1 f3 rd op = w := by
  subst hi h1 h3 hd ho
  exact packI_fields w

theorem packS_of_fields (h3 : funct3Of w = f3) (ho : opcodeOf w = op) :
    packS (immS w) (rs2Of w) (rs1Of w) f3 op = w := by
  subst h3 ho
  exact packS_fields w

theorem packB_of_fields (h3 : funct3Of w = f3) (ho : opcodeOf w = op) :
    packB (immB w) (rs2Of w) (rs1Of w) f3 op = w := by
  subst h3 ho
  exact packB_fields w

theorem packU_of_fields (ho : opcodeOf w = op) : packU (immU w) (rdOf w) op = w := by
  subst ho
  exact packU_fields w

theorem packJ_of_fields (ho : opcodeOf w = op) : packJ (immJ w) (rdOf w) op = w := by
  subst ho
  exact packJ_fields w

theorem packShift_of_fields {f6 : BitVec 6} (h6 : funct6Of w = f6) (h3 : funct3Of w = f3) (ho : opcodeOf w = op) :
    packShift f6 (shamtOf w) (rs1Of w) f3 (rdOf w) op = w := by
  subst h6 h3 ho
  exact packShift_fields w

theorem packF_of_fields {f5 : BitVec 5} (hf : fmtOf w = 0) (ho : opcodeOf w = 0x53) (h5 : funct5Of w = f5)
    (h2 : rs2Of w = rs2) (h3 : funct3Of w = f3) : packF f5 rs2 (rs1Of w) f3 (rdOf w) = w := by
  subst h5 h2 h3
  exact packF_fields w hf ho

end Fields

/-- `i` is what the word `w` spells: its encoding is `w`, some word decodes to it, and it is no spelling. -/
def Spells (w : Tetra) (i : Instr) : Prop := encode i = w ∧ WellFormed i ∧ isSpelling i = false

/-- A row with fixed cells is listed where the cells are right (30_encoding.md R144). -/
theorem listedIf_ok {ok : Bool} {i j : Instr} (h : listedIf ok j = .ok i) : ok = true ∧ j = i := by
  cases ok
  · cases h
  · exact ⟨rfl, Except.ok.inj h⟩

variable {w : Tetra} {i : Instr}

theorem spells_of_decodeLoad (ho : opcodeOf w = 0x03) (h : decodeLoad w = .ok i) : Spells w i := by
  unfold decodeLoad at h
  split at h <;> cases h <;> exact ⟨packI_of_fields rfl rfl ‹_› rfl ho, rfl, rfl⟩

theorem spells_of_decodeStore (ho : opcodeOf w = 0x23) (h : decodeStore w = .ok i) : Spells w i := by
  unfold decodeStore at h
  split at h <;> cases h <;> exact ⟨packS_of_fields ‹_› ho, rfl, rfl⟩

theorem spells_of_decodeBranch (ho : opcodeOf w = 0x63) (h : decodeBranch w = .ok i) : Spells w i := by
  unfold decodeBranch at h
  split at h <;> cases h <;> exact ⟨packB_of_fields ‹_› ho, rfl, rfl⟩

theorem spells_of_decodeAluImm (ho : opcodeOf w = 0x13) (h : decodeAluImm w = .ok i) : Spells w i := by
  unfold decodeAluImm at h
  split at h
  case h_2 h3 =>
    obtain ⟨h6, rfl⟩ := listedIf_ok h
    exact ⟨packShift_of_fields (beq_iff_eq.1 h6) h3 ho, rfl, rfl⟩
  case h_6 h3 => split at h <;> cases h <;> exact ⟨packShift_of_fields ‹_› h3 ho, rfl, rfl⟩
  all_goals cases h; exact ⟨packI_of_fields rfl rfl ‹_› rfl ho, rfl, rfl⟩

theorem spells_of_decodeAlu (ho : opcodeOf w = 0x33) (h : decodeAlu w = .ok i) : Spells w i := by
  unfold decodeAlu at h
  split at h
  case h_1 h7 =>
    unfold decodeAluBase at h
    split at h <;> cases h <;> exact ⟨pack_of_fields h7 rfl rfl ‹_› rfl ho, rfl, rfl⟩
  case h_2 h7 =>
    obtain ⟨h3, rfl⟩ := listedIf_ok h
    exact ⟨pack_of_fields h7 rfl rfl (beq_iff_eq.1 h3) rfl ho, rfl, rfl⟩
  case h_3 h7 => split at h <;> cases h <;> exact ⟨pack_of_fields h7 rfl rfl ‹_› rfl ho, rfl, rfl⟩
  case h_4 => cases h

theorem spells_of_decodeFloatS (hf : fmtOf w = 0) (ho : opcodeOf w = 0x53) (h : decodeFloatS w = .ok i) : Spells w i := by
  have word {f5 : BitVec 5} {f3 : BitVec 3} {rs2 : Reg} := packF_of_fields (f5 := f5) (f3 := f3) (rs2 := rs2) hf ho
  unfold decodeFloatS at h
  split at h
  case h_1 h5 | h_2 h5 | h_3 h5 | h_4 h5 => cases h; exact ⟨word h5 rfl rfl, rfl, rfl⟩
  case h_5 h5 | h_7 h5 | h_8 h5 => split at h <;> cases h <;> exact ⟨word h5 rfl ‹_›, rfl, rfl⟩
  case h_6 h5 =>
    obtain ⟨h2, rfl⟩ := listedIf_ok h
    exact ⟨word h5 (beq_iff_eq.1 h2) rfl, rfl, rfl⟩
  case h_9 h5 | h_10 h5 => split at h <;> cases h <;> exact ⟨word h5 ‹_› rfl, rfl, rfl⟩
  case h_11 h5 =>
    split at h
    case h_3 => cases h
    all_goals
      obtain ⟨h2, rfl⟩ := listedIf_ok h
      exact ⟨word h5 (beq_iff_eq.1 h2) ‹_›, rfl, rfl⟩
  case h_12 h5 =>
    obtain ⟨h23, rfl⟩ := listedIf_ok h
    obtain ⟨h2, h3⟩ := Bool.and_eq_true_iff.1 h23
    exact ⟨word h5 (beq_iff_eq.1 h2) (beq_iff_eq.1 h3), rfl, rfl⟩
  case h_13 => cases h

theorem spells_of_decodeFence (ho : opcodeOf w = 0x0F) (h : decodeFence w = .ok i) : Spells w i := by
  unfold decodeFence at h
  split at h
  case h_1 h3 =>
    obtain ⟨hz, rfl⟩ := listedIf_ok h
    simp only [Bool.and_eq_true, beq_iff_eq] at hz
    obtain ⟨⟨hhigh, h1⟩, hd⟩ := hz
    exact ⟨packFence_fields w ho h3 h1 hd hhigh, rfl, rfl⟩
  case h_2 h3 =>
    obtain ⟨hz, rfl⟩ := listedIf_ok h
    simp only [Bool.and_eq_true, beq_iff_eq] at hz
    obtain ⟨⟨hi, h1⟩, hd⟩ := hz
    exact ⟨packI_of_fields hi h1 h3 hd ho, rfl, rfl⟩
  case h_3 => cases h

theorem spells_of_decodeSystem0 (h3 : funct3Of w = 0) (ho : opcodeOf w = 0x73) (h : decodeSystem0 w = .ok i) :
    Spells w i := by
  unfold decodeSystem0 at h
  split at h
  case h_6 => cases h
  all_goals
    obtain ⟨hz, rfl⟩ := listedIf_ok h
    obtain ⟨h1, hd⟩ := Bool.and_eq_true_iff.1 hz
    exact ⟨packI_of_fields ‹_› (beq_iff_eq.1 h1) h3 (beq_iff_eq.1 hd) ho, rfl, rfl⟩

/-- What is left to CSRRW after the counter-read rows is well-formed (30_encoding.md R142). -/
theorem spells_of_decodeCsrrw (h3 : funct3Of w = 1) (ho : opcodeOf w = 0x73) (h : decodeCsrrw w = .ok i) : Spells w i := by
  unfold decodeCsrrw at h
  split at h
  case h_1 h1 =>
    split at h
    case h_7 =>
      cases h
      refine ⟨packI_of_fields rfl h1 h3 rfl ho, ?_, rfl⟩
      simp_all [WellFormed, Instr.wf, isCounterNumber]
    all_goals cases h; exact ⟨packI_of_fields ‹_› h1 h3 rfl ho, rfl, rfl⟩
  case h_2 h1 =>
    cases h
    exact ⟨packI_of_fields rfl rfl h3 rfl ho, by simpa [WellFormed, Instr.wf] using .inl h1, rfl⟩

theorem spells_of_decodeSystem (ho : opcodeOf w = 0x73) (h : decodeSystem w = .ok i) : Spells w i := by
  unfold decodeSystem at h
  split at h
  case h_1 h3 => exact spells_of_decodeSystem0 h3 ho h
  case h_2 h3 => exact spells_of_decodeCsrrw h3 ho h
  case h_8 => cases h
  all_goals cases h; exact ⟨packI_of_fields rfl rfl ‹_› rfl ho, rfl, rfl⟩

theorem spells_of_decodeCustom0 (h3 : funct3Of w = 0) (ho : opcodeOf w = 0x0D) (h : decodeCustom0 w = .ok i) :
    Spells w i := by
  unfold decodeCustom0 at h
  split at h
  case h_1 | h_2 => cases h; exact ⟨pack_of_fields ‹_› rfl rfl h3 rfl ho, rfl, rfl⟩
  case h_17 => cases h
  all_goals
    obtain ⟨hz, rfl⟩ := listedIf_ok h
    simp only [Bool.and_eq_true, beq_iff_eq] at hz
    exact ⟨pack_of_fields ‹_› (by simp [hz]) (by simp [hz]) h3 (by simp [hz]) ho, rfl, rfl⟩

theorem spells_of_decodeCustom (ho : opcodeOf w = 0x0D) (h : decodeCustom w = .ok i) : Spells w i := by
  unfold decodeCustom at h
  split at h
  case h_1 h3 => exact spells_of_decodeCustom0 h3 ho h
  case h_4 => cases h
  all_goals cases h; exact ⟨pack_of_fields (joinBits_funct7 w).symm rfl rfl ‹_› rfl ho, rfl, rfl⟩

/-- A word that decodes is the word of what it decodes to. -/
theorem spells_of_decode (h : decode w = .ok i) : Spells w i := by
  unfold decode at h
  split at h
  case h_1 ho | h_2 ho => cases h; exact ⟨packU_of_fields ho, rfl, rfl⟩
  case h_3 ho => cases h; exact ⟨packJ_of_fields ho, rfl, rfl⟩
  case h_4 ho | h_7 ho =>
    obtain ⟨h3, rfl⟩ := listedIf_ok h
    exact ⟨packI_of_fields rfl rfl (beq_iff_eq.1 h3) rfl ho, rfl, rfl⟩
  case h_5 ho => exact spells_of_decodeBranch ho h
  case h_6 ho => exact spells_of_decodeLoad ho h
  case h_8 ho => exact spells_of_decodeStore ho h
  case h_9 ho =>
    obtain ⟨h3, rfl⟩ := listedIf_ok h
    exact ⟨packS_of_fields (beq_iff_eq.1 h3) ho, rfl, rfl⟩
  case h_10 ho => exact spells_of_decodeAluImm ho h
  case h_11 ho => exact spells_of_decodeAlu ho h
  case h_12 ho =>
    unfold decodeFloat at h
    split at h
    · next hf => exact spells_of_decodeFloatS hf ho h
    · cases h
  case h_13 ho => exact spells_of_decodeFence ho h
  case h_14 ho => exact spells_of_decodeSystem ho h
  case h_15 ho => exact spells_of_decodeCustom ho h
  case h_16 => cases h

/-- Settles O9: each family's rows give back the columns they were read from. -/
theorem encodeDecode : Obligations.EncodeDecode := fun _ _ h => spells_of_decode h

/-- Settles O7: each word evaluates to its instruction, the last to none. -/
theorem decodesSpecWords : Obligations.DecodesSpecWords := by
  unfold Obligations.DecodesSpecWords
  decide

end Sys2Proof.Machine
end

section
/-! PROOFS. 30_encoding.md R151, R152: an assembler spelling does what the instruction it stands for does. -/

namespace Sys2Proof.Machine

theorem execRet_eq_jalr (s : State) : execRet s = execJalr 0 1 0 s := by
  simp [execRet, execJalr, jumpLink, sext64]

theorem execBra_eq_beq (off : BitVec 12) (s : State) : execBra off s = execBeq 0 0 off s := by
  simp [execBra, execBeq, branchOn]

theorem execBeqz_eq_beq (rs1 : Reg) (off : BitVec 12) (s : State) : execBeqz rs1 off s = execBeq rs1 0 off s := by
  simp [execBeqz, execBeq, branchOn]

theorem execNop_eq_addi (s : State) : execNop s = execAddi 0 0 0 s := by
  simp [execNop, execAddi, regImm, finishX]

theorem execLdi_eq_ori (rd : Reg) (imm : BitVec 12) (s : State) : execLdi rd imm s = execOri rd 0 imm s := by
  simp [execLdi, execOri, regImm]

theorem execMov_eq_or (rd rs1 : Reg) (s : State) : execMov rd rs1 s = execOr rd rs1 0 s := by
  simp [execMov, execOr, regImm, regReg]

theorem execFmov_eq_fsgnj (frd frs1 : Reg) (s : State) : execFmov frd frs1 s = execFsgnj frd frs1 frs1 s := by
  rw [execFmov, execFsgnj, withSign_append, ofBool_msb, BitVec.extractLsb'_append_extractLsb']

theorem execFneg_eq_fsgnjn (frd frs1 : Reg) (s : State) : execFneg frd frs1 s = execFsgnjn frd frs1 frs1 s := by
  rw [execFneg, execFsgnjn, withSign_append, xor_signMask, ← ofBool_msb, BitVec.not_ofBool]

theorem execFabs_eq_fsgnjx (frd frs1 : Reg) (s : State) : execFabs frd frs1 s = execFsgnjx frd frs1 frs1 s := by
  rw [execFabs, execFsgnjx, withSign_append, and_magnitudeMask, Bool.xor_self]
  rfl

/-- Settles O10: the eleven spellings one by one; a real row is its own core. -/
theorem spellingsMeanCore : Obligations.SpellingsMeanCore := by
  intro i s
  cases i with
  | ret => exact ⟨execRet_eq_jalr s, rfl⟩
  | bra off => exact ⟨execBra_eq_beq off s, rfl⟩
  | beqz rs1 off => exact ⟨execBeqz_eq_beq rs1 off s, rfl⟩
  | nop => exact ⟨execNop_eq_addi s, rfl⟩
  | ldi rd imm => exact ⟨execLdi_eq_ori rd imm s, rfl⟩
  | mov rd rs1 => exact ⟨execMov_eq_or rd rs1 s, rfl⟩
  | fmov frd frs1 => exact ⟨execFmov_eq_fsgnj frd frs1 s, rfl⟩
  | fneg frd frs1 => exact ⟨execFneg_eq_fsgnjn frd frs1 s, rfl⟩
  | fabs frd frs1 => exact ⟨execFabs_eq_fsgnjx frd frs1 s, rfl⟩
  | _ => exact ⟨rfl, rfl⟩

end Sys2Proof.Machine
end

section
/-! PROOFS. Everything an instruction can do: one inversion of `exec` over all rows, from which the statements about the whole
machine follow. -/

namespace Sys2Proof.Machine

/-- The ways in which an instruction `i` can take the state `s` to a next state. -/
inductive Effect (i : Instr) (s : State) : State → Prop where
  /-- A value to an integer register, flags accrued, values drawn; the next instruction. -/
  | writesX {rd : Reg} {v : Word} {fl : BitVec 5} {d : Nat} {u : State} (hfl : s.fflags &&& fl = s.fflags)
      (hu : writeX rd v { s with fflags := fl, draws := d } = .ok u) : Effect i s u.advance
  /-- A result to a floating-point register, flags accrued, values drawn; the next instruction. -/
  | writesF (frd : Reg) (r : Tetra) (fl : BitVec 5) (d : Nat) :
      Effect i s ((State.setF { s with draws := d } frd r).accrue fl).advance
  /-- A link, or none, and a jump. -/
  | jumps {rd : Reg} {v target : Word} {u : State} (hi : movesPc i = true) (hu : writeX rd v s = .ok u) :
      Effect i s (u.setPc target)
  /-- Bytes to memory; the next instruction. -/
  | stores {va : VAddr} {bytes : List Byte} {u : State} (hi : isStore i = true) (hu : memWrite va bytes s = .ok u) :
      Effect i s u.advance
  /-- A CSR's old value to an integer register and a new one to the CSR; the next instruction. -/
  | writesCsr {n : BitVec 12} {c : Csr} {rd : Reg} {v w : Word} {u t : State} (hi : isCsrInstr i = true)
      (hc : csrAccess n s = .ok c) (hu : writeX rd v s = .ok u) (ht : csrWrite c w u = .ok t) : Effect i s t.advance
  /-- A trap. -/
  | traps {k : TrapKind} {epc : Word} {t : State} (hi : movesPc i = true) (ht : takeTrap k epc s = .next t) : Effect i s t
  /-- The return from a trap. -/
  | returns (hi : i = .eret) (hm : s.mode = .machine) : Effect i s (returnFromTrap s)
  /-- The begin of a wait. -/
  | waits (hi : movesPc i = true) (hm : s.mode = .machine) : Effect i s { s with waiting := true }
  /-- A wait that ends at once. -/
  | resumes (hi : movesPc i = true) (hm : s.mode = .machine) : Effect i s { s with waiting := false, pc := s.pc + 4 }
  /-- A segment register swapped with an integer register. -/
  | swapsSeg {rd : Reg} {v : Word} {n : BitVec 4} {w : BitVec 32} {u : State} (hm : s.mode = .machine)
      (hu : writeX rd v s = .ok u) : Effect i s (u.setSeg n w).advance
  /-- A map entry swapped with an integer register. -/
  | swapsMap {rd : Reg} {v : Word} {a : BitVec 6} {e : BitVec mapIndexBits} {w : BitVec mapEntryBits} {u : State}
      (hm : s.mode = .machine) (hu : writeX rd v s = .ok u) : Effect i s (u.setMap a e w).advance

namespace Effect

variable {i : Instr} {s t : State}

/-! ## The shapes of the meanings -/

theorem of_finishX {rd : Reg} {v : Word} (h : finishX rd v s = .next t) : Effect i s t := by
  obtain ⟨u, hu, rfl⟩ := finishX_cases h
  exact writesX BitVec.and_self hu

theorem of_regImm {rd rs1 : Reg} {f : Word → Word} (h : regImm rd rs1 f s = .next t) : Effect i s t := by
  obtain ⟨a, u, -, hu, rfl⟩ := regImm_cases h
  exact writesX BitVec.and_self hu

theorem of_regReg {rd rs1 rs2 : Reg} {f : Word → Word → Word} (h : regReg rd rs1 rs2 f s = .next t) : Effect i s t := by
  obtain ⟨a, b, u, -, -, hu, rfl⟩ := regReg_cases h
  exact writesX BitVec.and_self hu

/-- A jump without a link. -/
theorem of_setPc (hi : movesPc i = true) (target : Word) : Effect i s (s.setPc target) :=
  jumps hi (writeX_zero 0 s)

theorem of_jumpLink {rd : Reg} {target : Word} (hi : movesPc i = true) (h : jumpLink rd target s = .next t) :
    Effect i s t := by
  obtain ⟨u, hu, rfl⟩ := jumpLink_cases h
  exact jumps hi hu

theorem of_branchIf {c : Bool} {off : BitVec 12} (hi : movesPc i = true) (h : branchIf c off s = .next t) :
    Effect i s t :=
  branchIf_cases h ▸ of_setPc hi _

theorem of_branchOn {rs1 rs2 : Reg} {off : BitVec 12} {c : Word → Word → Bool} (hi : movesPc i = true)
    (h : branchOn rs1 rs2 off c s = .next t) : Effect i s t := by
  obtain ⟨a, b, -, -, rfl⟩ := branchOn_cases h
  exact of_setPc hi _

theorem of_loadX {rd rs1 : Reg} {imm : BitVec 12} {n : Nat} {value : List Byte → Word}
    (h : loadX rd rs1 imm n value s = .next t) : Effect i s t := by
  obtain ⟨a, bytes, q, u, -, hm, hu, rfl⟩ := loadX_cases h
  obtain ⟨pas, -, -, d, rfl⟩ := memRead_cases hm
  exact writesX BitVec.and_self hu

theorem of_storeX {rs2 rs1 : Reg} {imm : BitVec 12} {n : Nat} (hi : isStore i = true)
    (h : storeX rs2 rs1 imm n s = .next t) : Effect i s t := by
  obtain ⟨a, b, u, -, -, hu, rfl⟩ := storeX_cases h
  exact stores hi hu

theorem of_finishF {frd : Reg} {r : Tetra} {fl : BitVec 5} (h : finishF frd r fl s = .next t) : Effect i s t := by
  injection h with h
  exact h ▸ writesF frd r fl s.draws

theorem of_moveF {frd : Reg} {r : Tetra} (h : moveF frd r s = .next t) : Effect i s t :=
  of_finishF ((moveF_eq_finishF frd r s).symm.trans h)

theorem of_fpBinary {op : RoundingMode → Tetra → Tetra → Tetra × BitVec 5} {frd frs1 frs2 : Reg} {rm : BitVec 3}
    (h : fpBinary op frd frs1 frs2 rm s = .next t) : Effect i s t := by
  obtain ⟨m, -, h⟩ := fpBinary_cases h
  exact of_finishF h

theorem of_fpToInteger {value : RoundingMode → Tetra → Word} {flags : RoundingMode → Tetra → BitVec 5} {rd frs1 : Reg}
    {rm : BitVec 3} (h : fpToInteger value flags rd frs1 rm s = .next t) : Effect i s t := by
  obtain ⟨m, -, h⟩ := orFault_next h
  obtain ⟨u, hu, rfl⟩ := finishX_cases h
  exact writesX (d := s.draws) (by ext j hj; simp; tauto) hu

theorem of_fpFromInteger {value : RoundingMode → Word → Tetra} {flags : RoundingMode → Word → BitVec 5} {frd rs1 : Reg}
    {rm : BitVec 3} (h : fpFromInteger value flags frd rs1 rm s = .next t) : Effect i s t := by
  obtain ⟨m, -, h⟩ := orFault_next h
  obtain ⟨a, -, h⟩ := orFault_next h
  exact of_finishF h

theorem of_csrInstr {rd : Reg} {n : BitVec 12} {operand : Except Fault Word} {writes : Bool} {f : Word → Word → Word}
    (hi : isCsrInstr i = true) (h : csrInstr rd n operand writes f s = .next t) : Effect i s t := by
  obtain ⟨c, a, u, hc, -, hu, ⟨-, rfl⟩ | ⟨w, -, hw, rfl⟩⟩ := csrInstr_cases h
  · exact writesX BitVec.and_self hu
  · exact writesCsr hi hc hu hw

theorem of_undescribed {m : String} (h : undescribed m s = .next t) : Effect i s t := by
  obtain ⟨-, h⟩ := machineOnly_next h
  cases h

/-! ## The instructions with a shape of their own -/

theorem of_ret (h : execRet s = .next t) : Effect .ret s t := by
  obtain ⟨a, -, h⟩ := orFault_next h
  injection h with h
  exact h ▸ of_setPc rfl _

theorem of_beqz {rs1 : Reg} {off : BitVec 12} (h : execBeqz rs1 off s = .next t) : Effect (.beqz rs1 off) s t := by
  obtain ⟨a, -, h⟩ := orFault_next h
  exact of_branchIf rfl h

theorem of_jalr {rd rs1 : Reg} {imm : BitVec 12} (h : execJalr rd rs1 imm s = .next t) :
    Effect (.jalr rd rs1 imm) s t := by
  obtain ⟨a, -, h⟩ := orFault_next h
  exact of_jumpLink rfl h

theorem of_flw {frd rs1 : Reg} {imm : BitVec 12} (h : execFlw frd rs1 imm s = .next t) : Effect i s t := by
  obtain ⟨⟨bytes, q⟩, hr, h⟩ := orFault_next h
  obtain ⟨a, -, hm⟩ := loadFrom_cases hr
  obtain ⟨pas, -, -, d, rfl⟩ := memRead_cases hm
  injection h with h
  rw [← h, ← State.accrue_zero (State.setF _ _ _)]
  exact writesF frd (leValue 32 bytes) 0 d

theorem of_fsw {frs2 rs1 : Reg} {imm : BitVec 12} (h : execFsw frs2 rs1 imm s = .next t) :
    Effect (.fsw frs2 rs1 imm) s t := by
  obtain ⟨a, -, h⟩ := orFault_next h
  obtain ⟨u, hu, rfl⟩ := storeAt_cases h
  exact stores rfl hu

theorem of_fsqrt {frd frs1 : Reg} {rm : BitVec 3} (h : execFsqrt frd frs1 rm s = .next t) : Effect i s t := by
  obtain ⟨m, -, h⟩ := orFault_next h
  exact of_finishF h

theorem of_fmvXS {rd frs1 : Reg} (h : execFmvXS rd frs1 s = .next t) : Effect i s t := by
  obtain ⟨u, hu, rfl⟩ := finishX_cases h
  exact writesX BitVec.and_self hu

theorem of_fmvSX {frd rs1 : Reg} (h : execFmvSX frd rs1 s = .next t) : Effect i s t := by
  obtain ⟨a, -, h⟩ := orFault_next h
  exact of_moveF h

theorem of_eret (h : execEret s = .next t) : Effect .eret s t := by
  obtain ⟨hm, h⟩ := machineOnly_next h
  injection h with h
  exact h ▸ returns rfl hm

theorem of_wfi (h : execWfi s = .next t) : Effect .wfi s t := by
  obtain ⟨hm, h⟩ := machineOnly_next h
  split at h
  · obtain ⟨-, h⟩ | ⟨-, rfl⟩ := wakeUp_cases h
    · exact traps rfl h
    · exact resumes rfl hm
  · injection h with h
    exact h ▸ waits rfl hm

theorem of_pfi (h : execPfi s = .next t) : Effect .pfi s t := by
  obtain ⟨hm, h⟩ := machineOnly_next h
  split at h
  · exact traps rfl h
  · injection h with h
    exact h ▸ of_setPc rfl _

theorem of_mvseg {rd rs1 rs2 : Reg} (h : execMvseg rd rs1 rs2 s = .next t) : Effect i s t := by
  obtain ⟨hm, h⟩ := machineOnly_next h
  obtain ⟨n, -, h⟩ := orFault_next h
  split at h
  · cases h
  · obtain ⟨a, -, h⟩ := orFault_next h
    obtain ⟨u, hu, h⟩ := orFault_next h
    injection h with h
    exact h ▸ swapsSeg hm hu

theorem of_mvmap {rd rs1 rs2 : Reg} (h : execMvmap rd rs1 rs2 s = .next t) : Effect i s t := by
  obtain ⟨hm, h⟩ := machineOnly_next h
  obtain ⟨n, -, h⟩ := orFault_next h
  split at h
  · cases h
  · obtain ⟨a, -, h⟩ := orFault_next h
    obtain ⟨u, hu, h⟩ := orFault_next h
    injection h with h
    exact h ▸ swapsMap hm hu

end Effect

/-- Everything an instruction can do when it answers a next state. -/
theorem exec_cases {i : Instr} {s t : State} (h : exec i s = .next t) : Effect i s t := by
  cases i with
  | lui | auipc | ldi | feq | flt | fle | fclass | rdcycle | rdcycleh | rdtime | rdtimeh | rdinstret | rdinstreth =>
    exact .of_finishX h
  | addi | slti | sltui | xori | ori | andi | slli | srli | srai | mov => exact .of_regImm h
  | add | sub | mul | sll | slt | sltu | xor | srl | sra | or | and => exact .of_regReg h
  | jal | call => exact .of_jumpLink rfl h
  | jalr => exact .of_jalr h
  | beq | bne | blt | bge | bltu | bgeu | ble => exact .of_branchOn rfl h
  | bra => exact .of_branchIf rfl h
  | beqz => exact .of_beqz h
  | ret => exact .of_ret h
  | lb | lh | lw | lbu | lhu => simp only [exec] at h; exact .of_loadX h
  | flw => exact .of_flw h
  | sb | sh | sw => exact .of_storeX rfl h
  | fsw => exact .of_fsw h
  | fadd | fsub | fmul | fdiv => exact .of_fpBinary h
  | fmin | fmax => exact .of_finishF h
  | fsqrt => exact .of_fsqrt h
  | fsgnj | fsgnjn | fsgnjx | fmov | fneg | fabs => exact .of_moveF h
  | fcvt_w_s | fcvt_wu_s => exact .of_fpToInteger h
  | fcvt_s_w | fcvt_s_wu => exact .of_fpFromInteger h
  | fmv_x_s => exact .of_fmvXS h
  | fmv_s_x => exact .of_fmvSX h
  | fence | fence_i | nop => injection h with h; exact h ▸ .writesX BitVec.and_self (writeX_zero 0 s)
  | ecall | ebreak => exact .traps rfl h
  | eret => exact .of_eret h
  | wfi => exact .of_wfi h
  | pfi => exact .of_pfi h
  | csrrw | csrrs | csrrc | csrrwi | csrrsi | csrrci => simp only [exec] at h; exact .of_csrInstr rfl h
  | mvseg => exact .of_mvseg h
  | mvmap => exact .of_mvmap h
  | palloc | pfree | pfreeall | setto | getto | getzl | decto | insrdy | rmvrdy | getrdy | insiof | rmviof | nxtiof | prviof
  | lxx | sxx => exact .of_undescribed h

end Sys2Proof.Machine
end

section
/-! PROOFS. What every instruction keeps, one case for each way in which an instruction can take a state to the next. -/

namespace Sys2Proof.Machine

variable {i : Instr} {s t u : State}

/-! ## Frames of the shared operations -/

/-- A store touches memory, the set of stored addresses, the recorded events and the draw counter alone. -/
theorem memWrite_frame {va : VAddr} {bytes : List Byte} (h : memWrite va bytes s = .ok t) :
    ∃ m st io d, t = { s with mem := m, stored := st, ioWrites := io, draws := d } := by
  obtain ⟨pas, -, rfl⟩ := memWrite_cases h
  obtain ⟨l, io, d, -, he, -⟩ := storeCells_cases va (pas.zip bytes) s
  obtain ⟨m, st, hf⟩ := writeBytes_frame l s
  exact ⟨m, st, io, d, by rw [he, hf]⟩

/-- The fetch of an instruction touches the draw counter alone. -/
theorem fetchInstr_frame (h : fetchInstr s = .ok (i, t)) : ∃ d, t = { s with draws := d } := by
  obtain ⟨bytes, hb, -⟩ := fetchInstr_cases h
  obtain ⟨-, pas, -, -, -, hd⟩ := fetchBytes_cases hb
  exact hd

/-- A register write leaves the registers of every set but the selected one. -/
theorem writeX_confined {rd : Reg} {v : Word} {c : RegSet} (h : writeX rd v s = .ok u) (hc : s.roleSet .rd ≠ some c)
    (j : Reg) : u.xval c j = s.xval c j :=
  (writeX_wrote h).2 c j fun ⟨_, _, hb⟩ => hc hb

/-- A trap keeps memory, the guarded registers and what ERET records. -/
theorem takeTrap_keeps {k : TrapKind} {epc : Word} (h : takeTrap k epc s = .next t) :
    MemorySame s t ∧ GuardedSame s t ∧ IntegerSame s t ∧ t.fflags = s.fflags ∧ t.mresume = s.mresume := by
  obtain ⟨p, -, rfl⟩ := takeTrap_cases h
  exact ⟨.of_fields rfl rfl rfl, ⟨rfl, rfl, rfl, rfl, rfl, rfl, rfl, rfl, rfl⟩, .of_sets rfl rfl rfl, rfl, rfl⟩

/-! ## The program counter, the flags, the integer registers -/

/-- Settles O56: a link, a jump, a trap, a return and a wait are no instruction of those named; every other way ends with the
next instruction. -/
theorem sequentialFlow : Obligations.SequentialFlow := by
  intro i s t hi h
  cases exec_cases h with
  | writesX _ hu | swapsSeg _ hu | swapsMap _ hu => simp [(writeX_frame hu).1]
  | writesF => simp
  | stores _ hu => obtain ⟨m, st, io, d, rfl⟩ := memWrite_frame hu; rfl
  | writesCsr _ _ hu ht => simp [(csrWrite_frame ht).1, (writeX_frame hu).1]
  | jumps hm | traps hm | waits hm | resumes hm => simp [hi] at hm
  | returns he => subst he; cases hi

/-- Settles O57: a floating-point result accrues its flags, a CSR instruction is excluded, everything else leaves the flags. -/
theorem flagsAccrue : Obligations.FlagsAccrue := by
  intro i s t hi h
  cases exec_cases h with
  | writesX hfl hu =>
    obtain ⟨-, -, hf, -⟩ := writeX_frame hu
    rw [State.advance_fflags, hf]
    exact hfl
  | writesF => ext j hj; simp; tauto
  | jumps _ hu | swapsSeg _ hu | swapsMap _ hu =>
    obtain ⟨-, -, hf, -⟩ := writeX_frame hu
    simp [hf]
  | stores _ hu => obtain ⟨m, st, io, d, rfl⟩ := memWrite_frame hu; exact BitVec.and_self
  | writesCsr hc => simp [hi] at hc
  | traps _ ht =>
    obtain ⟨-, -, -, hf, -⟩ := takeTrap_keeps ht
    rw [hf, BitVec.and_self]
  | returns | waits | resumes => exact BitVec.and_self

/-- Settles O6: every write of an integer register goes through the set the destination role selects. -/
theorem integerWritesConfined : Obligations.IntegerWritesConfined := by
  intro i s t c h hc j
  have sets {u t : State} (h0 : t.xset0 = u.xset0) (h1 : t.xset1 = u.xset1) (h2 : t.xset2 = u.xset2) :
      t.xval c j = u.xval c j := IntegerSame.of_sets h0 h1 h2 c j
  cases exec_cases h with
  | writesX _ hu | jumps _ hu | swapsSeg _ hu | swapsMap _ hu => exact (sets rfl rfl rfl).trans (writeX_confined hu hc j)
  | writesF => exact sets (by simp) (by simp) (by simp)
  | stores _ hu => obtain ⟨m, st, io, d, rfl⟩ := memWrite_frame hu; exact sets rfl rfl rfl
  | writesCsr _ _ hu ht =>
    obtain ⟨-, h0, h1, h2, -⟩ := csrWrite_frame ht
    exact (sets h0 h1 h2).trans (writeX_confined hu hc j)
  | traps _ ht =>
    obtain ⟨-, -, hx, -⟩ := takeTrap_keeps ht
    exact hx c j
  | returns | waits | resumes => exact sets rfl rfl rfl

/-! ## Memory -/

theorem MemorySame.trans (h : MemorySame s t) (h' : MemorySame t u) : MemorySame s u :=
  ⟨fun a => (h'.bytes a).trans (h.bytes a), h'.stored.trans h.stored, h'.ioWrites.trans h.ioWrites⟩

/-- An instruction leaves memory as it is or is a store. -/
theorem Effect.memory (h : Effect i s t) :
    MemorySame s t ∨ ∃ va bytes u, isStore i = true ∧ memWrite va bytes s = .ok u ∧ t = u.advance := by
  cases h with
  | stores hi hu => exact .inr ⟨_, _, _, hi, hu, rfl⟩
  | writesX _ hu | jumps _ hu | swapsSeg _ hu | swapsMap _ hu =>
    obtain ⟨-, -, -, -, -, -, hm⟩ := writeX_frame hu
    exact .inl { hm with }
  | writesF => exact .inl (.of_fields (by simp) (by simp) (by simp))
  | writesCsr _ _ hu ht =>
    obtain ⟨-, -, -, -, -, hm, hs, hw, -⟩ := csrWrite_frame ht
    obtain ⟨-, -, -, -, -, -, hms⟩ := writeX_frame hu
    exact .inl { hms.trans (.of_fields hm hs hw) with }
  | traps _ ht => exact .inl (takeTrap_keeps ht).1
  | returns | waits | resumes => exact .inl (.of_fields rfl rfl rfl)

/-- No instruction changes a byte that no store may change. -/
theorem Effect.byteAt_of_not_writable {a : Nat} (h : Effect i s t) (ha : s.isWritable a = false) :
    t.byteAt a = s.byteAt a := by
  obtain hm | ⟨va, bytes, u, -, hu, rfl⟩ := h.memory
  · exact hm.bytes a
  · obtain ⟨pas, -, rfl⟩ := memWrite_cases hu
    exact byteAt_storeCells_of_not_mem va _ s a (.inr ha)

/-- No step changes a byte that no store may change. -/
theorem step_byteAt_of_not_writable {a : Nat} (h : step s = .next t) (ha : s.isWritable a = false) :
    t.byteAt a = s.byteAt a := by
  obtain ⟨c, tm, n, p, ar, d, hb⟩ := boundary_frame s
  have hbyte : s.boundary.byteAt a = s.byteAt a := by rw [hb]; rfl
  rw [← hbyte]
  rcases step_cases h with ⟨-, -, hw⟩ | ⟨-, -, rfl⟩ | ⟨-, -, -, hi⟩ | ⟨i, q, -, hf, he⟩
  · obtain ⟨-, ht⟩ | ⟨-, rfl⟩ := wakeUp_cases hw
    · exact (takeTrap_keeps ht).1.bytes a
    · rfl
  · rfl
  · exact (takeTrap_keeps hi).1.bytes a
  · obtain ⟨d, rfl⟩ := fetchInstr_frame hf
    refine (exec_cases he).byteAt_of_not_writable ((isWritable_congr ?_ a).trans ha)
    rw [hb]

/-- Settles O58: only a store reaches memory, and a store keeps the bytes of the ROM and of the windows. -/
theorem onlyStoresWriteMemory : Obligations.OnlyStoresWriteMemory := by
  refine ⟨fun i s t hi h => ?_, fun s t a h ha => step_byteAt_of_not_writable h ?_⟩
  · obtain hm | ⟨va, bytes, u, hs, -⟩ := (exec_cases h).memory
    · exact hm
    · simp [hi] at hs
  · rcases ha with ha | ha <;> simp [State.isWritable, ha]

/-! ## Modes and guarded registers -/

/-- The CSRs user mode may access hold no guarded field and no mode. -/
theorem csrWrite_user {c : Csr} {v : Word} (hc : userCsr c = true) (h : csrWrite c v s = .ok t) :
    GuardedSame s t ∧ t.mode = s.mode := by
  cases c with
  | fflags | frm | fcsr => cases h; exact ⟨⟨rfl, rfl, rfl, rfl, rfl, rfl, rfl, rfl, rfl⟩, rfl⟩
  | cycle | time | instret | cycleh | timeh | instreth => cases h
  | _ => cases hc

theorem GuardedSame.trans (h : GuardedSame s t) (h' : GuardedSame t u) : GuardedSame s u where
  mstatusOther := h'.mstatusOther.trans h.mstatusOther
  mtimecmp     := h'.mtimecmp.trans h.mtimecmp
  enabled      := h'.enabled.trans h.enabled
  pending      := h'.pending.trans h.pending
  mscratch     := h'.mscratch.trans h.mscratch
  mbadaddr     := h'.mbadaddr.trans h.mbadaddr
  asid         := h'.asid.trans h.asid
  seg          := h'.seg.trans h.seg
  pageMap      := h'.pageMap.trans h.pageMap

/-- Settles O59: what reaches a guarded register needs machine mode, or a CSR that user mode may not access. -/
theorem userKeepsGuarded : Obligations.UserKeepsGuarded := by
  intro i s t hu h
  cases exec_cases h with
  | writesX _ hw | jumps _ hw =>
    obtain ⟨-, -, -, -, -, hc, -⟩ := writeX_frame hw
    exact ⟨{ hc.guarded with }, hc.trap.mresume⟩
  | writesF => exact ⟨by constructor <;> simp, by simp⟩
  | stores _ hw =>
    obtain ⟨m, st, io, d, rfl⟩ := memWrite_frame hw
    exact ⟨⟨rfl, rfl, rfl, rfl, rfl, rfl, rfl, rfl, rfl⟩, rfl⟩
  | writesCsr _ hc hw ht =>
    obtain ⟨-, -, -, -, -, hcontrol, -⟩ := writeX_frame hw
    obtain ⟨hguard, -⟩ := csrWrite_user (csrAccess_user hc hu) ht
    obtain ⟨-, -, -, -, -, -, -, -, -, -, hresume, -⟩ := csrWrite_frame ht
    exact ⟨{ hcontrol.guarded.trans hguard with }, hresume.trans hcontrol.trap.mresume⟩
  | traps _ ht =>
    obtain ⟨-, hguard, -, -, hresume⟩ := takeTrap_keeps ht
    exact ⟨hguard, hresume⟩
  | returns _ hm | waits _ hm | resumes _ hm | swapsSeg hm | swapsMap hm => cases hu.symm.trans hm

/-- An instruction changes the mode only by a trap, to machine mode, or as ERET. -/
theorem Effect.mode (h : Effect i s t) :
    t.mode = s.mode ∨ (∃ k epc, takeTrap k epc s = .next t) ∨ (i = .eret ∧ s.mode = .machine ∧ t = returnFromTrap s) := by
  cases h with
  | writesX _ hu | jumps _ hu | swapsSeg _ hu | swapsMap _ hu =>
    obtain ⟨-, -, -, -, -, hc, -⟩ := writeX_frame hu
    exact .inl hc.trap.mode
  | writesF => exact .inl (by simp)
  | stores _ hu => obtain ⟨m, st, io, d, rfl⟩ := memWrite_frame hu; exact .inl rfl
  | writesCsr _ ha hu ht =>
    obtain ⟨-, -, -, -, -, hc, -⟩ := writeX_frame hu
    refine .inl (Eq.trans ?_ hc.trap.mode)
    obtain hsame | ⟨rfl, hm⟩ := csrWrite_mode ht
    · exact hsame
    · cases hs : s.mode with
      | machine => exact hm.trans (hc.trap.mode.trans hs).symm
      | user => cases csrAccess_user ha hs
  | traps _ ht => exact .inr (.inl ⟨_, _, ht⟩)
  | returns hi hm => exact .inr (.inr ⟨hi, hm, rfl⟩)
  | waits | resumes => exact .inl rfl

/-- A step that changes the mode takes a trap, or fetched an ERET. -/
theorem step_mode (h : step s = .next t) :
    t.mode = s.mode ∨ (∃ k epc, TrapTaken k epc s.boundary t) ∨
      ∃ q, fetchInstr s.boundary = .ok (.eret, q) ∧ s.mode = .machine ∧ t = returnFromTrap q := by
  obtain ⟨c, tm, n, p, ar, d, hb⟩ := boundary_frame s
  have hmode : s.boundary.mode = s.mode := by rw [hb]
  rw [← hmode]
  rcases step_cases h with ⟨-, -, hw⟩ | ⟨-, -, rfl⟩ | ⟨-, -, -, hi⟩ | ⟨i, q, -, hf, he⟩
  · obtain ⟨-, ht⟩ | ⟨-, rfl⟩ := wakeUp_cases hw
    · exact .inr (.inl ⟨_, _, takeTrap_taken ht⟩)
    · exact .inl rfl
  · exact .inl rfl
  · exact .inr (.inl ⟨_, _, takeTrap_taken hi⟩)
  · obtain ⟨d, rfl⟩ := fetchInstr_frame hf
    rcases (exec_cases he).mode with hm | ⟨k, epc, ht⟩ | ⟨rfl, hm, rfl⟩
    · exact .inl hm
    · refine .inr (.inl ⟨k, epc, ?_⟩)
      -- a trap does not depend on the draw counter
      obtain ⟨h1, h2, h3, h4, h5, h6, h7, h8, h9, h10, h11, h12, hx, hfl, h13, h14, h15, hout, hg, hmem⟩ := takeTrap_taken ht
      exact ⟨h1, h2, h3, h4, h5, h6, h7, h8, h9, h10, h11, h12, hx, hfl, h13, h14, h15, { hout with }, { hg with }, { hmem with }⟩
    · exact .inr (.inr ⟨_, hf, hm, rfl⟩)

/-- Settles O60: from user mode a changed mode is a trap's, with its target the resume address; from machine mode it is ERET's. -/
theorem modeChanges : Obligations.ModeChanges := by
  refine ⟨fun s t hu h => ?_, fun s t hm h => ?_⟩
  · rcases step_mode h with hsame | ⟨k, epc, ht⟩ | ⟨q, -, hm, -⟩
    · exact .inl (hsame.trans hu)
    · obtain ⟨c, tm, n, p, ar, d, hb⟩ := boundary_frame s
      refine .inr ⟨k, epc, ht, ?_⟩
      obtain ⟨-, -, -, -, -, -, -, hpc, -⟩ := ht
      rw [hpc, hb]
      simp [trapTarget, hu, trapTargetFromUser]
    · cases hu.symm.trans hm
  · rcases step_mode h with hsame | ⟨k, epc, -, -, hmode, -⟩ | ⟨q, hf, -, rfl⟩
    · exact .inl (hsame.trans hm)
    · exact .inl hmode
    · exact .inr ⟨q, hf, rfl⟩

end Sys2Proof.Machine
end

section
/-! PROOFS. The invariant of the machine holds after reset and every step keeps it: each shared operation keeps it, and an
instruction is one of the ways of `Effect`. -/

namespace Sys2Proof.Machine

variable {i : Instr} {s t u : State}

/-- Settles O2: the lists are empty, the registers zero, no wait, no source. -/
theorem resetMeetsInvariant : Obligations.ResetMeetsInvariant where
  memory  := rfl
  memTop  := by simp [State.reset]
  stored  := rfl
  pageMap := rfl
  mapTop  := by simp [State.reset]
  x0      := ⟨rfl, rfl, rfl⟩
  f0      := rfl
  waiting := fun h => by cases h
  pending := BitVec.zero_and
  enabled := BitVec.zero_and

/-- A write to another register of a file leaves register 0 zero. -/
theorem regFile_set_zero {f : RegFile} {r : Reg} {v : Word} (h : f[0] = 0) (hr : r ≠ 0) : (f.set r.toNat v r.isLt)[0] = 0 := by
  have hne : r.toNat ≠ 0 := fun e => hr (BitVec.eq_of_toNat_eq e)
  rw [Vector.getElem_set_ne r.isLt (by decide) hne, h]

namespace MachineInv

/-- Flags and draws are no part of the invariant. -/
theorem drawn (h : MachineInv s) (fl : BitVec 5) (d : Nat) : MachineInv { s with fflags := fl, draws := d } := { h with }

theorem setX {b : RegSet} {rd : Reg} {v : Word} (h : MachineInv s) (hr : rd ≠ 0) : MachineInv (s.setX b rd v) := by
  obtain ⟨h0, h1, h2⟩ := h.x0
  rw [State.setX, if_neg hr]
  cases b with
  | set0 => exact { h with x0 := ⟨regFile_set_zero h0 hr, h1, h2⟩ }
  | set1 => exact { h with x0 := ⟨h0, regFile_set_zero h1 hr, h2⟩ }
  | set2 => exact { h with x0 := ⟨h0, h1, regFile_set_zero h2 hr⟩ }

theorem writeX {rd : Reg} {v : Word} (h : MachineInv s) (hu : writeX rd v s = .ok u) : MachineInv u := by
  obtain ⟨-, rfl⟩ | ⟨b, hr, -, rfl⟩ := writeX_cases hu
  · exact h
  · exact h.setX hr

theorem setF {frd : Reg} {r : Tetra} (h : MachineInv s) : MachineInv (s.setF frd r) := by
  unfold State.setF
  split
  · exact h
  · next hr =>
    exact { h with f0 := regFile_set_zero h.f0 hr }

theorem memWrite {va : VAddr} {bytes : List Byte} (h : MachineInv s) (hu : memWrite va bytes s = .ok u) : MachineInv u := by
  obtain ⟨m, st, io, d, hf⟩ := memWrite_frame hu
  obtain ⟨pas, hp, hcells⟩ := memWrite_cases hu
  have hmem := memory_wf_storeCells (va := va) (cells := pas.zip bytes) h.memory
  have htop := mem_lt_storeCells (va := va) (cells := pas.zip bytes) h.memTop
    (fun c hc => translateRange_lt hp _ (List.of_mem_zip hc).1)
  have hstored := stored_rising_storeCells (va := va) (cells := pas.zip bytes) h.stored
  rw [← hcells] at hmem htop hstored
  subst hf
  exact { h with memory := hmem, memTop := htop, stored := hstored }

theorem csrWrite {c : Csr} {v : Word} (h : MachineInv s) (ht : csrWrite c v s = .ok t) : MachineInv t := by
  cases c with
  | mie => cases ht; exact { h with enabled := mieSources_within v }
  | mtimecmp => cases ht; exact { h with pending := withoutTimer_within h.pending }
  | mstatus => cases ht; exact { h with waiting := fun _ => rfl }
  | fflags | frm | fcsr | mscratch | mepc | mcause | mbadaddr | asid | regset => cases ht; exact { h with }
  | _ => cases ht

theorem setMap {a : BitVec 6} {e : BitVec mapIndexBits} {w : BitVec mapEntryBits} (h : MachineInv s) :
    MachineInv (s.setMap a e w) := by
  refine { h with pageMap := pageMap_wf_setMap h.pageMap a e w, mapTop := fun c hc => ?_ }
  rw [State.setMap_pageMap] at hc
  split at hc
  · exact h.mapTop c (mem_cellDrop hc)
  · rcases mem_cellPut hc with rfl | hc
    · exact mapKey_lt a e
    · exact h.mapTop c hc

theorem takeTrap {k : TrapKind} {epc : Word} (h : MachineInv s) (ht : takeTrap k epc s = .next t) : MachineInv t := by
  obtain ⟨p, -, rfl⟩ := takeTrap_cases ht
  exact { h with waiting := fun _ => rfl }

theorem wakeUp (h : MachineInv s) (ht : wakeUp s = .next t) : MachineInv t := by
  obtain ⟨-, ht⟩ | ⟨-, rfl⟩ := wakeUp_cases ht
  · exact h.takeTrap ht
  · exact { h with waiting := fun hw => by cases hw }

theorem boundary (h : MachineInv s) : MachineInv s.boundary := by
  have htick : MachineInv s.tick := by
    obtain ⟨c, tm, n, d, ht⟩ := tick_frame s
    rw [ht]
    exact { h with }
  unfold State.boundary State.acceptArrival
  split
  · exact htick
  · exact { htick with pending := acceptedPending_within _ _ }

/-- An instruction, which never runs during a wait, keeps the invariant. -/
theorem effect (h : MachineInv s) (hw : s.waiting = false) (he : Effect i s t) : MachineInv t := by
  cases he with
  | writesX _ hu => exact { (h.drawn _ _).writeX hu with }
  | writesF frd r fl d => exact { (h.drawn s.fflags d).setF (frd := frd) (r := r) with }
  | jumps _ hu | swapsSeg _ hu => exact { h.writeX hu with }
  | stores _ hu => exact { h.memWrite hu with }
  | writesCsr _ _ hu ht => exact { (h.writeX hu).csrWrite ht with }
  | traps _ ht => exact h.takeTrap ht
  | returns => exact { h with waiting := fun hw' => by cases hw.symm.trans hw' }
  | waits _ hm => exact { h with waiting := fun _ => hm }
  | resumes => exact { h with waiting := fun hw' => by cases hw' }
  | swapsMap _ hu => exact { (h.writeX hu).setMap with }

end MachineInv

/-- Settles O3: the boundary keeps the invariant, and so does what follows it: the end of a wait, the wait, an interrupt or the
fetched instruction. -/
theorem stepKeepsInvariant : Obligations.StepKeepsInvariant := by
  intro s t h hstep
  rcases step_cases hstep with ⟨-, -, hwake⟩ | ⟨-, -, rfl⟩ | ⟨-, -, -, hint⟩ | ⟨i, q, hw, hf, he⟩
  · exact h.boundary.wakeUp hwake
  · exact h.boundary
  · exact h.boundary.takeTrap hint
  · obtain ⟨d, rfl⟩ := fetchInstr_frame hf
    exact (h.boundary.drawn _ d).effect hw (exec_cases he)

end Sys2Proof.Machine
end

section
/-! PROOFS. 60_exceptions.md: traps, interrupts, waits and the return from a trap. -/

namespace Sys2Proof.Machine

variable {s t : State} {k : TrapKind} {epc : Word}

/-! ## Taking a trap -/

/-- A trap stops where the current register set has none above it (10_state.md R28, 60_exceptions.md R380). -/
theorem takeTrap_stop (h : ¬(currentSet s.regset).toNat < 2) : takeTrap k epc s = .fault .regsetInvalid := by
  simp [takeTrap, pushRegset, h]

theorem takeTrap_next (h : (currentSet s.regset).toNat < 2) : ∃ t, takeTrap k epc s = .next t ∧ TrapTaken k epc s t := by
  obtain ⟨t, ht⟩ := takeTrap_total (k := k) (epc := epc) h
  exact ⟨t, ht, takeTrap_taken ht⟩

theorem intRequest_of_ne (h : s.pending &&& s.enabled ≠ 0) : intRequest s = true := bne_iff_ne.2 h

theorem intRequest_of_eq (h : s.pending &&& s.enabled = 0) : intRequest s = false := bne_eq_false_iff_eq.2 h

/-- An accepted interrupt is that of a pending and enabled source (60_exceptions.md R392). -/
theorem takeInterrupt_next (hreq : s.pending &&& s.enabled ≠ 0) (h : (currentSet s.regset).toNat < 2) (epc : Word) :
    ∃ (k : Fin 64) (t : State), s.pending.getLsbD k.val = true ∧ s.enabled.getLsbD k.val = true ∧
      takeInterrupt epc s = .next t ∧ TrapTaken (.interrupt k) epc s t := by
  have hk := chooseSource_mem hreq
  rw [BitVec.getLsbD_and, Bool.and_eq_true] at hk
  obtain ⟨t, ht, htaken⟩ := takeTrap_next h
  exact ⟨_, t, hk.1, hk.2, ht, htaken⟩

/-- Settles O41: both instructions are the trap operation itself, at their own address. -/
theorem environmentCalls : Obligations.EnvironmentCalls := by
  intro s
  have hepc : s.pc + epcOffsetEcall = s.pc := BitVec.add_zero s.pc
  refine ⟨fun h => ?_, fun h => ⟨takeTrap_stop h, takeTrap_stop h⟩, fun hm k => ?_, fun hm k => ?_⟩
  · have hcall : exec .ecall s = takeTrap .ecall s.pc s := congrArg (takeTrap .ecall · s) hepc
    have hbreak : exec .ebreak s = takeTrap .ebreak s.pc s := congrArg (takeTrap .ebreak · s) hepc
    rw [hcall, hbreak]
    exact ⟨takeTrap_next h, takeTrap_next h⟩
  · simp [trapTarget, hm, trapTargetFromUser]
  · simp [trapTarget, hm]

/-! ## Cause codes -/

theorem mem_allKinds (k : TrapKind) : k ∈ allKinds := by
  cases k <;> simp [allKinds]

/-- The configured codes are used only where no two kinds share one (60_exceptions.md R371). -/
theorem causeCodeRaw_injective (h : causeCodesDistinct = true) {j k : TrapKind} {m n : Mode}
    (he : Config.causeCodeRaw j m = Config.causeCodeRaw k n) : j = k := by
  have hmode (m : Mode) : m ∈ [Mode.user, Mode.machine] := by cases m <;> simp
  unfold causeCodesDistinct at h
  simp only [List.all_eq_true] at h
  have := h j (mem_allKinds j) k (mem_allKinds k) m (hmode m) n (hmode n)
  simpa [he] using this

theorem fallbackCode_injective {j k : TrapKind} (h : fallbackCode j = fallbackCode k) : j = k := by
  have hn := congrArg BitVec.toNat h
  cases j <;> cases k <;> simp [fallbackCode] at hn ⊢ <;> omega

/-- Settles O42: the codes in use are the configured ones where those are distinct, else the kinds' own numbers. -/
theorem TrapKind.causeCodesDistinct : Obligations.CauseCodesDistinct := by
  intro j k m n h
  unfold causeCode at h
  split at h
  · next hd => exact causeCodeRaw_injective hd h
  · exact fallbackCode_injective h

/-! ## The return from a trap -/

theorem execEret_machine (h : s.mode = .machine) : exec .eret s = .next (returnFromTrap s) := by
  simp [exec, execEret, machineOnly, h]

/-- Settles O43: ERET is `returnFromTrap`, which pops the stack and restores the saved fields. -/
theorem returnFromException : Obligations.ReturnFromException := by
  intro s hm
  obtain ⟨hselect, hstack, -⟩ := popRegset_fields s.regset (s.drawn.extractLsb' 0 2)
  exact ⟨_, execEret_machine hm, rfl, rfl, rfl, rfl, hselect, hstack, rfl, rfl, rfl, .of_sets rfl rfl rfl, .of_file rfl, rfl, rfl,
    ⟨rfl, rfl, rfl, rfl, rfl⟩, ⟨rfl, rfl, rfl, rfl, rfl, rfl, rfl, rfl, rfl⟩, .of_fields rfl rfl rfl⟩

/-- A pop undoes a push but for the oldest entry (10_state.md R26). -/
theorem popRegset_pushed {r p : BitVec 16} (h : pushRegset r = .ok p) (top : BitVec 2) :
    (popRegset p top).extractLsb' 0 14 = r.extractLsb' 0 14 := by
  have halves (x : BitVec 16) : x.extractLsb' 0 14 = x.extractLsb' 4 10 ++ x.extractLsb' 0 4 :=
    (BitVec.extractLsb'_append_extractLsb'_eq_extractLsb' (start₁ := 0) (len₁ := 4) (len₂ := 10) rfl).symm
  obtain ⟨-, -, -, hselect, hstack⟩ := pushRegset_cases h
  obtain ⟨hselect', hstack', -⟩ := popRegset_fields p top
  rw [halves, halves, hselect', hstack', hselect, hstack]

/-- Settles O44: the trap saves what ERET restores, and its push is undone by the pop. -/
theorem trapThenReturn : Obligations.TrapThenReturn := by
  intro k epc s t h
  obtain ⟨p, hp, rfl⟩ := takeTrap_cases h
  exact ⟨_, execEret_machine rfl, rfl, rfl, rfl, popRegset_pushed hp _, .of_sets rfl rfl rfl, .of_file rfl, rfl, rfl,
    ⟨rfl, rfl, rfl, rfl, rfl⟩, ⟨rfl, rfl, rfl, rfl, rfl, rfl, rfl, rfl, rfl⟩, .of_fields rfl rfl rfl⟩

/-! ## WFI and PFI -/

theorem execWfi_machine (h : s.mode = .machine) :
    exec .wfi s = if intRequest s then wakeUp s else .next { s with waiting := true } := by
  simp [exec, execWfi, machineOnly, h]

theorem execPfi_machine (h : s.mode = .machine) :
    exec .pfi s = if intRequest s then takeInterrupt (s.pc + 4) s else .next s.advance := by
  simp [exec, execPfi, machineOnly, h]

theorem wakeUp_enabled (h : s.ie = true) : wakeUp s = takeInterrupt (s.pc + 4) s := if_pos h

theorem wakeUp_disabled (h : s.ie = false) : wakeUp s = .next { s with waiting := false, pc := s.pc + 4 } :=
  if_neg (by simp [h])

/-- Settles O45: without a request WFI waits; with one it is `wakeUp`, an interrupt or the next instruction. -/
theorem waitForInterrupt : Obligations.WaitForInterrupt := by
  intro s hm
  refine ⟨fun h => ?_, fun h hie => ?_, fun h hie hc => ?_, fun h hie hc => ?_⟩
  · rw [execWfi_machine hm, intRequest_of_eq h, if_neg (by decide)]
  · rw [execWfi_machine hm, intRequest_of_ne h, if_pos rfl, wakeUp_disabled hie]
  · rw [execWfi_machine hm, intRequest_of_ne h, if_pos rfl, wakeUp_enabled hie]
    exact takeInterrupt_next h hc _
  · rw [execWfi_machine hm, intRequest_of_ne h, if_pos rfl, wakeUp_enabled hie]
    exact takeTrap_stop hc

/-- Settles O46: without a request PFI is a no-operation; with one it takes the interrupt, whatever the enable. -/
theorem pollForInterrupt : Obligations.PollForInterrupt := by
  intro s
  refine ⟨fun hm h => ⟨by decide, ?_⟩, fun hm h hc => ?_, fun hm h hc => ?_, fun hm => ?_⟩
  · rw [YieldsPc, execPfi_machine hm, intRequest_of_eq h, if_neg (by decide)]
    rfl
  · rw [execPfi_machine hm, intRequest_of_ne h, if_pos rfl]
    exact takeInterrupt_next h hc _
  · rw [execPfi_machine hm, intRequest_of_ne h, if_pos rfl]
    exact takeTrap_stop hc
  · simp [exec, execPfi, machineOnly, hm]

/-! ## Steps that execute nothing -/

/-- What a step boundary keeps of every state. -/
theorem boundary_keeps (s : State) :
    s.boundary.pc = s.pc ∧ s.boundary.ie = s.ie ∧ s.boundary.waiting = s.waiting ∧ s.boundary.regset = s.regset := by
  obtain ⟨c, tm, n, p, ar, d, hb⟩ := boundary_frame s
  rw [hb]
  exact ⟨rfl, rfl, rfl, rfl⟩

/-- During a wait, of the counters only `time` advances (60_exceptions.md R393). -/
theorem boundary_waiting (h : s.waiting = true) :
    ∃ tm p ar d, s.boundary = { s with time := tm, pending := p, arrivals := ar, draws := d } := by
  obtain ⟨p, ar, ha⟩ := acceptArrival_frame s.tick
  have ht : s.tick = { s.afterDraw with time := s.time + s.drawn } := if_pos h
  exact ⟨_, p, ar, _, by rw [State.boundary, ha, ht]; rfl⟩

theorem step_waiting (h : s.waiting = true) :
    step s = if intRequest s.boundary then wakeUp s.boundary else .next s.boundary := by
  obtain ⟨-, -, hw, -⟩ := boundary_keeps s
  simp [step, hw, h]

/-- Settles O14: a waiting step is the boundary, then nothing or `wakeUp`. -/
theorem waitingStep : Obligations.WaitingStep := by
  intro s hwait
  obtain ⟨hpc, hie, -, hregset⟩ := boundary_keeps s
  rw [← hie, ← hregset, ← hpc]
  refine ⟨fun h => ?_, fun h hie => ?_, fun h hie hc => ?_, fun h hie hc => ?_⟩
  · rw [step_waiting hwait, intRequest_of_eq h, if_neg (by decide)]
    obtain ⟨tm, p, ar, d, hb⟩ := boundary_waiting hwait
    refine ⟨rfl, rfl, ?_⟩
    rw [hb]
    exact ⟨hwait, rfl, rfl, .of_sets rfl rfl rfl, .of_file rfl, .of_fields rfl rfl rfl,
      ⟨rfl, rfl, rfl, rfl, rfl, rfl, rfl, rfl, rfl⟩⟩
  · rw [step_waiting hwait, intRequest_of_ne h, if_pos rfl, wakeUp_disabled hie]
  · rw [step_waiting hwait, intRequest_of_ne h, if_pos rfl, wakeUp_enabled hie]
    exact takeInterrupt_next h hc _
  · rw [step_waiting hwait, intRequest_of_ne h, if_pos rfl, wakeUp_enabled hie]
    exact takeTrap_stop hc

theorem step_interrupted (hw : s.waiting = false) (hie : s.ie = true) (h : intRequest s.boundary = true) :
    step s = takeInterrupt s.boundary.pc s.boundary := by
  obtain ⟨-, hbie, hbw, -⟩ := boundary_keeps s
  simp [step, hbw, hw, hbie, hie, h]

/-- Settles O15: the step is the interrupt of the boundary state. -/
theorem interruptTaken : Obligations.InterruptTaken := by
  intro s hw hie h
  obtain ⟨hpc, -, -, hregset⟩ := boundary_keeps s
  rw [← hregset, ← hpc, step_interrupted hw hie (intRequest_of_ne h)]
  exact ⟨fun hc => takeInterrupt_next h hc _, takeTrap_stop⟩

end Sys2Proof.Machine
end

section
/-! PROOFS. The fetch and the step that runs an instruction (10_state.md R33, R35, 20_memory.md R72, R78, R103); an instruction
loaded from outside is what the next step runs. -/

namespace Sys2Proof.Machine

variable {i : Instr} {s : State} {pas : List Nat}

/-! ## Translation in machine mode -/

/-- In machine mode a range is the addresses themselves, modulo 2^32 (20_memory.md R85). -/
theorem translateRange_machine (hm : s.mode = .machine) (va : VAddr) (n : Nat) (k : Access) :
    translateRange va n k s = .ok ((List.range n).map fun j => (va + BitVec.ofNat 32 j).toNat) := by
  induction n generalizing va with
  | zero => rfl
  | succ n ih =>
    have hnext (j : Nat) : va + 1 + BitVec.ofNat 32 j = va + BitVec.ofNat 32 (j + 1) := by
      rw [BitVec.add_assoc, BitVec.ofNat_add, BitVec.add_comm (1 : VAddr)]
      rfl
    have hself : (va.setWidth 44).toNat = (va + BitVec.ofNat 32 0).toNat := by simp; omega
    simp only [translateRange, translate_machine hm, ih, hnext, hself, List.range_succ_eq_map, List.map_cons, List.map_map]
    rfl

/-- The four bytes of an aligned fetch in machine mode lie at `pc[31:0]` and the next three addresses. -/
theorem translateRange_fetch (hm : s.mode = .machine) (hpc : s.pc.extractLsb' 0 2 = 0) :
    translateRange (s.pc.setWidth 32) 4 .fetch s = .ok ((List.range 4).map fun j => s.pc.toNat % 2 ^ 32 + j) := by
  have hmod : s.pc.toNat % 4 = 0 := by simpa using congrArg BitVec.toNat hpc
  rw [translateRange_machine hm]
  refine congrArg _ (List.map_congr_left fun j hj => ?_)
  have hj : j < 4 := List.mem_range.1 hj
  simp only [BitVec.toNat_add, BitVec.toNat_setWidth, BitVec.toNat_ofNat]
  omega

/-! ## What a fetch delivers and where it stops -/

theorem fetchBytes_misaligned (hpc : s.pc.extractLsb' 0 2 ≠ 0) : fetchBytes s = .error .fetchMisaligned := if_pos hpc

theorem fetchBytes_fault {f : Fault} (hpc : s.pc.extractLsb' 0 2 = 0)
    (h : translateRange (s.pc.setWidth 32) 4 .fetch s = .error f) : fetchBytes s = .error f := by
  simp [fetchBytes, hpc, h]

theorem fetchBytes_stored (hpc : s.pc.extractLsb' 0 2 = 0) (h : translateRange (s.pc.setWidth 32) 4 .fetch s = .ok pas)
    (hs : ∃ a ∈ pas, a ∈ s.stored) : fetchBytes s = .error .fetchAfterStore := by
  simpa [fetchBytes, hpc, h, ifetchCoherent] using hs

theorem fetchBytes_memory (hpc : s.pc.extractLsb' 0 2 = 0) (h : translateRange (s.pc.setWidth 32) 4 .fetch s = .ok pas)
    (ha : ∀ a ∈ pas, s.isDevice a = false ∧ a ∉ s.stored) : fetchBytes s = .ok (pas.map s.byteAt, s) := by
  have hs : ¬∃ a ∈ pas, a ∈ s.stored := fun ⟨a, hp, hst⟩ => (ha a hp).2 hst
  simp only [fetchBytes, hpc, h, readBytes_of_memory pas s fun a hp => (ha a hp).1]
  simpa [ifetchCoherent] using hs

theorem fetchInstr_error {f : Fault} (h : fetchBytes s = .error f) : fetchInstr s = .error f := by
  simp [fetchInstr, h]

theorem fetchInstr_ok {bytes : List Byte} {q : State} (h : fetchBytes s = .ok (bytes, q)) (hd : decodeBytes bytes = .ok i) :
    fetchInstr s = .ok (i, q) := by
  simp [fetchInstr, h, hd]

/-- A step that neither waits nor is interrupted runs what it fetches. -/
theorem step_fetches (hw : s.waiting = false) (hi : ¬(s.ie = true ∧ intRequest s.boundary = true)) :
    step s = orFault (fetchInstr s.boundary) fun r => exec r.1 r.2 := by
  obtain ⟨-, hbie, hbw, -⟩ := boundary_keeps s
  have hi' : ¬(s.boundary.ie && intRequest s.boundary) = true := by rwa [Bool.and_eq_true, hbie]
  have hw' : ¬s.boundary.waiting = true := by simp [hbw, hw]
  unfold step
  exact (if_neg hw').trans (if_neg hi')

/-- Settles O12: each clause is one branch of the fetch. -/
theorem fetchReadsAndStops : Obligations.FetchReadsAndStops := by
  refine ⟨fun s pas hpc hp => ⟨fetchBytes_memory hpc hp, fun hs => fetchInstr_error (fetchBytes_stored hpc hp hs)⟩,
    fun s f hpc hp => fetchInstr_error (fetchBytes_fault hpc hp), fun s hm hpc ha => ?machine,
    fun s hpc => fetchInstr_error (fetchBytes_misaligned hpc), fun s k hm hpc hk hs => ?stored,
    fun s bytes q hb hd => ?unlisted, fun s f hw hie hf => ?step⟩
  case machine =>
    refine fetchBytes_memory hpc (translateRange_fetch hm hpc) fun a hp => ?_
    obtain ⟨k, hk, rfl⟩ := List.mem_map.1 hp
    exact ha k (List.mem_range.1 hk)
  case stored =>
    exact fetchInstr_error (fetchBytes_stored hpc (translateRange_fetch hm hpc)
      ⟨_, List.mem_map_of_mem (List.mem_range.2 hk), hs⟩)
  case unlisted => simp [fetchInstr, hb, hd]
  case step => rw [step_fetches hw (by simp [hie]), hf, orFault_error]

/-- Settles O11: the step runs what the boundary state fetches. -/
theorem stepRunsDecoded : Obligations.StepRunsDecoded := by
  intro s i bytes q hw hi hb hd
  constructor
  · rw [step_fetches hw hi, fetchInstr_ok hb hd, orFault_ok]
  · obtain ⟨d, rfl⟩ := fetchInstr_frame (fetchInstr_ok hb hd)
    obtain ⟨c, tm, n, p, ar, d', hbd⟩ := boundary_frame s
    rw [hbd]

/-! ## Bytes loaded from outside (entry 29) -/

/-- A load from outside touches memory and the set of stored addresses alone. -/
theorem loadBytes_frame (l : List (Nat × Byte)) (s : State) : ∃ m st, loadBytes l s = { s with mem := m, stored := st } := by
  induction l generalizing s with
  | nil => exact ⟨s.mem, s.stored, rfl⟩
  | cons c rest ih =>
    obtain ⟨m, st, h⟩ := ih (loadByte c.1 c.2 s)
    exact ⟨m, st, h⟩

theorem byteAt_loadByte (a k : Nat) (b : Byte) (s : State) :
    (loadByte a b s).byteAt k = if k = a then b else s.byteAt k := by
  unfold State.byteAt loadByte
  rw [cellAt_cellPut]
  split <;> rfl

theorem byteAt_loadBytes_of_not_mem (l : List (Nat × Byte)) (s : State) (k : Nat) (h : k ∉ l.map Prod.fst) :
    (loadBytes l s).byteAt k = s.byteAt k := by
  induction l generalizing s with
  | nil => rfl
  | cons c rest ih =>
    rw [List.map_cons, List.mem_cons, not_or] at h
    rw [show loadBytes (c :: rest) s = loadBytes rest (loadByte c.1 c.2 s) from rfl, ih _ h.2, byteAt_loadByte, if_neg h.1]

/-- Bytes loaded at distinct addresses are read back. -/
theorem map_byteAt_loadBytes (l : List (Nat × Byte)) (s : State) (hn : (l.map Prod.fst).Nodup) :
    (l.map Prod.fst).map (loadBytes l s).byteAt = l.map Prod.snd := by
  induction l generalizing s with
  | nil => rfl
  | cons c rest ih =>
    rw [List.map_cons, List.nodup_cons] at hn
    rw [List.map_cons, List.map_cons, List.map_cons, show loadBytes (c :: rest) s = loadBytes rest (loadByte c.1 c.2 s) from rfl,
      ih _ hn.2, byteAt_loadBytes_of_not_mem _ _ _ hn.1, byteAt_loadByte, if_pos rfl]

/-- A load from outside stores to no address. -/
theorem mem_stored_of_loadBytes {l : List (Nat × Byte)} {s : State} {a : Nat} (h : a ∈ (loadBytes l s).stored) :
    a ∈ s.stored := by
  induction l generalizing s with
  | nil => exact h
  | cons c rest ih => exact mem_dropAddress (ih h)

/-- Loaded addresses no longer count as stored to. -/
theorem not_mem_stored_loadBytes {l : List (Nat × Byte)} {s : State} {a : Nat} (hr : addressesRising s.stored = true)
    (ha : a ∈ l.map Prod.fst) : a ∉ (loadBytes l s).stored := by
  induction l generalizing s with
  | nil => simp at ha
  | cons c rest ih =>
    rcases List.mem_cons.1 ha with rfl | ha
    · exact fun h => not_mem_dropAddress hr (mem_stored_of_loadBytes (s := loadByte c.1 c.2 s) h)
    · exact ih (s := loadByte c.1 c.2 s) (addressesRising_dropAddress hr) ha

/-- Where nothing is pending and nothing arrives, nothing is pending at the boundary. -/
theorem boundary_quiet (hp : s.pending = 0) (ha : s.arrivals = []) : s.boundary.pending = 0 := by
  obtain ⟨c, tm, n, d, ht⟩ := tick_frame s
  simp [State.boundary, State.acceptArrival, ht, ha, hp]

/-- The four bytes of an instruction, loaded where an aligned fetch in machine mode looks, are fetched at the next boundary. -/
theorem fetchInstr_loadAtPc (hwf : WellFormed i) (hm : s.mode = .machine) (hpc : s.pc.extractLsb' 0 2 = 0)
    (hd : s.devices = []) (hr : addressesRising s.stored = true) :
    fetchInstr (loadAtPc (encodeBytes i) s).boundary = .ok (i.core, (loadAtPc (encodeBytes i) s).boundary) := by
  have hp := translateRange_fetch hm hpc
  generalize (List.range 4).map (fun j => s.pc.toNat % 2 ^ 32 + j) = pas at hp
  have hlen : pas.length = (encodeBytes i).length := translateRange_length hp
  have hfst : (pas.zip (encodeBytes i)).map Prod.fst = pas := List.map_fst_zip hlen.le
  have hsnd : (pas.zip (encodeBytes i)).map Prod.snd = encodeBytes i := List.map_snd_zip hlen.ge
  have hload : loadAtPc (encodeBytes i) s = loadBytes (pas.zip (encodeBytes i)) s := by simp [loadAtPc, hp]
  have hbytes : pas.map (loadAtPc (encodeBytes i) s).byteAt = encodeBytes i := by
    have := map_byteAt_loadBytes (pas.zip (encodeBytes i)) s (hfst.symm ▸ translateRange_nodup (by decide) hp)
    rwa [hfst, hsnd, ← hload] at this
  have hstored (a : Nat) (ha : a ∈ pas) : a ∉ (loadAtPc (encodeBytes i) s).stored :=
    hload ▸ not_mem_stored_loadBytes hr (hfst.symm ▸ ha)
  obtain ⟨m, st, hf⟩ := loadBytes_frame (pas.zip (encodeBytes i)) s
  rw [← hload] at hf
  generalize loadAtPc (encodeBytes i) s = l at hbytes hstored hf ⊢
  obtain ⟨c, tm, n, p, ar, d, hb⟩ := boundary_frame l
  have hrange : translateRange (l.boundary.pc.setWidth 32) 4 .fetch l.boundary = .ok pas := by
    rw [← hp, hb, hf]
    exact translateRange_congr _ _ _ rfl rfl rfl rfl
  have hfetch : fetchBytes l.boundary = .ok (pas.map l.boundary.byteAt, l.boundary) := by
    have hdev : l.boundary.devices = [] := by rw [hb, hf]; exact hd
    refine fetchBytes_memory (by rw [hb, hf]; exact hpc) hrange fun a ha => ⟨by simp [State.isDevice, hdev], ?_⟩
    rw [hb]
    exact hstored a ha
  have hsame : pas.map l.boundary.byteAt = encodeBytes i := by rw [← hbytes, hb]; rfl
  rw [hsame] at hfetch
  exact fetchInstr_ok hfetch ((decodeBytes_instrBytes _).trans (decode_encode hwf))

/-- Where nothing interrupts it, the step after the load runs the loaded instruction. -/
theorem step_loadAtPc (hwf : WellFormed i) (hm : s.mode = .machine) (hpc : s.pc.extractLsb' 0 2 = 0)
    (hd : s.devices = []) (hr : addressesRising s.stored = true) (hw : s.waiting = false)
    (hq : s.ie = true → s.pending = 0 ∧ s.arrivals = []) :
    step (loadAtPc (encodeBytes i) s) = exec i.core (loadAtPc (encodeBytes i) s).boundary := by
  obtain ⟨m, st, hf⟩ : ∃ m st, loadAtPc (encodeBytes i) s = { s with mem := m, stored := st } := by
    unfold loadAtPc
    split
    · exact loadBytes_frame _ s
    · exact ⟨s.mem, s.stored, rfl⟩
  rw [step_fetches (by rw [hf]; exact hw), fetchInstr_loadAtPc hwf hm hpc hd hr, orFault_ok]
  rintro ⟨hie, hreq⟩
  have hzero : (loadAtPc (encodeBytes i) s).boundary.pending = 0 := by
    obtain ⟨hp, ha⟩ := hq (by simpa [hf] using hie)
    exact boundary_quiet (by rw [hf]; exact hp) (by rw [hf]; exact ha)
  simp [intRequest, requests, hzero] at hreq

/-- Settles O13: the loaded word is the instruction's, at a state that neither waits nor is interrupted. -/
theorem loadedWordRuns : Obligations.LoadedWordRuns := by
  intro i s hwf hm hpc hd hr
  have hword : BitVec.ofNat 32 ((encode i).toNat % 2 ^ 32) = encode i := by
    rw [Nat.mod_eq_of_lt (encode i).isLt, BitVec.ofNat_toNat, BitVec.setWidth_eq]
  have hload : s.withFetchWord 32 (encode i).toNat =
      loadAtPc (encodeBytes i) (if s.ie then quiet { s with waiting := false } else { s with waiting := false }) := by
    simp only [State.withFetchWord, encodeBytes, hword]
  rw [hload]
  split
  · exact step_loadAtPc hwf hm hpc hd hr rfl fun _ => ⟨rfl, rfl⟩
  · next hie => exact step_loadAtPc hwf hm hpc hd hr rfl fun h => absurd h hie

end Sys2Proof.Machine
end

section
/-! PROOFS. 20_memory.md: translation in machine and in user mode, the bytes of an access, a load after a store. -/

namespace Sys2Proof.Machine

/-! ## Fields as numbers -/

theorem joinBits_toNat {n m k : Nat} (h : n + m ≤ k) (hi : BitVec n) (lo : BitVec m) :
    (joinBits k hi lo).toNat = hi.toNat * 2 ^ m + lo.toNat := by
  have hlo : lo.toNat < 2 ^ m := lo.isLt
  have hhi : hi.toNat < 2 ^ n := hi.isLt
  have hsum : hi.toNat * 2 ^ m + lo.toNat < 2 ^ k :=
    calc hi.toNat * 2 ^ m + lo.toNat
      _ < (hi.toNat + 1) * 2 ^ m := by rw [Nat.add_mul, Nat.one_mul]; omega
      _ ≤ 2 ^ n * 2 ^ m := Nat.mul_le_mul_right _ hhi
      _ ≤ 2 ^ k := by rw [← pow_add]; exact Nat.pow_le_pow_right (by decide) h
  have hlo' : lo.toNat < 2 ^ k := hlo.trans_le (Nat.pow_le_pow_right (by decide) (by omega))
  have hhi' : hi.toNat < 2 ^ k := hhi.trans_le (Nat.pow_le_pow_right (by decide) (by omega))
  unfold joinBits
  rw [BitVec.toNat_or, BitVec.toNat_shiftLeft, BitVec.toNat_setWidth, BitVec.toNat_setWidth, Nat.mod_eq_of_lt hlo',
    Nat.mod_eq_of_lt hhi', Nat.shiftLeft_eq, Nat.mod_eq_of_lt (by omega), ← Nat.shiftLeft_eq,
    ← Nat.shiftLeft_add_eq_or_of_lt hlo, Nat.shiftLeft_eq]

/-- The linear address as a number (20_memory.md R88). -/
theorem linearAddress_eq (va : VAddr) (seg : BitVec 32) :
    linearAddress va seg = BitVec.ofNat 44 (va.toNat + seg.toNat / 16 * 65536) := by
  apply BitVec.eq_of_toNat_eq
  have hva := va.isLt
  have hseg := seg.isLt
  simp only [linearAddress, BitVec.toNat_add, BitVec.toNat_setWidth, BitVec.toNat_shiftLeft, BitVec.extractLsb'_toNat,
    BitVec.toNat_ofNat, Nat.shiftRight_eq_div_pow, Nat.shiftLeft_eq]
  omega

/-! ## Machine mode -/

/-- Settles O30: the 44-bit address has the number of the 32-bit one. -/
theorem machineTranslation : Obligations.MachineTranslation := by
  intro va k s hm
  refine ⟨va.setWidth 44, translate_machine hm va k, ?_⟩
  rw [BitVec.toNat_setWidth, Nat.mod_eq_of_lt (va.isLt.trans (by decide))]

/-- Settles O32: `translate_mod`, and distinct low 16 bits for neighbouring addresses. -/
theorem lowSixteenBitsPass : Obligations.LowSixteenBitsPass :=
  ⟨fun _ _ _ _ h => translate_mod h, fun _ _ _ _ _ hn h => translateRange_nodup (by omega) h⟩

/-! ## User mode -/

section User

variable {va : VAddr} {k : Access} {s : State}

theorem topRegion_iff (la : LAddr) :
    la.extractLsb' 32 12 = 0 ∧ la.extractLsb' 24 8 = 0xFF ↔ la.toNat / 2 ^ 24 = 0xFF := by
  have hla := la.isLt
  rw [← BitVec.toNat_inj, ← BitVec.toNat_inj]
  simp only [BitVec.extractLsb'_toNat, Nat.shiftRight_eq_div_pow, BitVec.ofNat_eq_ofNat,
    BitVec.toNat_ofNat]
  omega

theorem outOfMap_iff (la : LAddr) : la.extractLsb' (16 + mapIndexBits) (28 - mapIndexBits) ≠ 0 ↔ 2 ^ (16 + mapIndexBits) ≤ la.toNat := by
  have hla := la.isLt
  rw [ne_eq, ← BitVec.toNat_inj]
  simp only [BitVec.extractLsb'_toNat, Nat.shiftRight_eq_div_pow, BitVec.ofNat_eq_ofNat, BitVec.toNat_ofNat,
    mapIndexBits]
  omega

theorem pageTranslate_top {la : LAddr} (h : la.toNat / 2 ^ 24 = 0xFF) (s : State) : pageTranslate la s = .ok la :=
  if_pos ((topRegion_iff la).2 h)

/-- What paging makes of a linear address: unmapped, out of the map, or an entry above the low 16 bits (20_memory.md R90, R91). -/
theorem pageTranslate_cases (la : LAddr) (s : State) :
    (la.toNat / 2 ^ 24 = 0xFF → pageTranslate la s = .ok la) ∧
    (la.toNat / 2 ^ 24 ≠ 0xFF → 2 ^ (16 + mapIndexBits) ≤ la.toNat → pageTranslate la s = .error .pageOutOfMap) ∧
    (la.toNat < 2 ^ (16 + mapIndexBits) → ∃ pa, pageTranslate la s = .ok pa ∧
      pa.toNat = (s.mapAt s.asid (BitVec.ofNat mapIndexBits (la.toNat / 65536))).toNat * 65536 + la.toNat % 65536) := by
  refine ⟨fun h => pageTranslate_top h s, fun h hout => ?_, fun hin => ?_⟩
  · rw [pageTranslate, if_neg (mt (topRegion_iff la).1 h), if_pos ((outOfMap_iff la).2 hout)]
  · have htop : ¬la.toNat / 2 ^ 24 = 0xFF := by
      simp only [mapIndexBits] at hin
      omega
    refine ⟨_, by rw [pageTranslate, if_neg (mt (topRegion_iff la).1 htop), if_neg (mt (outOfMap_iff la).1 (by omega))], ?_⟩
    have hentry : la.extractLsb' 16 mapIndexBits = BitVec.ofNat mapIndexBits (la.toNat / 65536) :=
      congrArg (BitVec.ofNat _) (Nat.shiftRight_eq_div_pow la.toNat 16)
    rw [joinBits_toNat (by decide), BitVec.extractLsb'_toNat, hentry, Nat.shiftRight_zero]
    simp only [Nat.reducePow]

/-- The segment a data access selects, where the table gives one (20_memory.md R86). -/
theorem segSelect_data (hk : k ≠ .fetch) (n : Fin 16) (hn : va.toNat / 2 ^ 28 = n.val) :
    segSelect va k = if n.val ∈ [8, 9, 12, 13, 14, 15] then .error .segSelectUnspecified else .ok (BitVec.ofFin n) := by
  have hsel : va.extractLsb' 28 4 = BitVec.ofFin n := by
    apply BitVec.eq_of_toNat_eq
    rw [BitVec.extractLsb'_toNat, Nat.shiftRight_eq_div_pow, hn]
    exact Nat.mod_eq_of_lt n.isLt
  have htable : ∀ n : Fin 16, ((BitVec.ofFin n : BitVec 4).toNat < 8 || (BitVec.ofFin n : BitVec 4) == 10 ||
      (BitVec.ofFin n : BitVec 4) == 11) = !decide (n.val ∈ [8, 9, 12, 13, 14, 15]) := by decide
  have hdata : segSelect va k = if (va.extractLsb' 28 4).toNat < 8 || va.extractLsb' 28 4 == 10 || va.extractLsb' 28 4 == 11
      then .ok (va.extractLsb' 28 4) else .error .segSelectUnspecified := by
    cases k with
    | load | store => rfl
    | fetch => exact absurd rfl hk
  rw [hdata, hsel, htable]
  by_cases h : n.val ∈ [8, 9, 12, 13, 14, 15] <;> simp only [h, decide_true, decide_false, Bool.not_true, Bool.not_false, if_true,
    if_false, Bool.false_eq_true]

/-- A user-mode access through a segment (20_memory.md R89): the right, then paging of the linear address. -/
theorem translate_segment (hu : s.mode = .user) (hk : ¬(k = .fetch ∧ va.extractLsb' 24 8 = 0xFF)) {n : Fin 16}
    (hn : segSelect va k = .ok (BitVec.ofFin n)) :
    translate va k s = if s.seg[n].getLsbD (rightBit k) then
      pageTranslate (BitVec.ofNat 44 (va.toNat + s.seg[n].toNat / 16 * 65536)) s else .error .segPermission := by
  rw [← linearAddress_eq]
  simp only [translate, hu, if_neg hk, hn]
  rfl

/-- A fetch selects segment 12 and up by the two top bits (20_memory.md R86). -/
theorem segSelect_fetch (n : Fin 16) (hn : n.val = 12 + va.toNat / 2 ^ 30) : segSelect va .fetch = .ok (BitVec.ofFin n) := by
  refine congrArg Except.ok (BitVec.eq_of_toNat_eq ?_)
  have hva := va.isLt
  simp only [BitVec.toNat_add, BitVec.toNat_setWidth, BitVec.extractLsb'_toNat, Nat.shiftRight_eq_div_pow, BitVec.toNat_ofFin, hn,
    BitVec.ofNat_eq_ofNat, BitVec.toNat_ofNat]
  omega

/-- Settles O31: the segment, its right, then paging; a fetch from the top region skips all three. -/
theorem userTranslation : Obligations.UserTranslation := by
  intro va s hu paged linear
  have htop : va.extractLsb' 24 8 = 0xFF ↔ va.toNat / 2 ^ 24 = 0xFF := by
    have hva := va.isLt
    rw [← BitVec.toNat_inj]
    simp only [BitVec.extractLsb'_toNat, Nat.shiftRight_eq_div_pow, BitVec.ofNat_eq_ofNat,
    BitVec.toNat_ofNat]
    omega
  refine ⟨fun k hk n hn => ⟨fun hbad => ?unselected, fun hgood => ?data⟩, fun h => ?top, fun h n hn => ?fetch⟩
  case unselected =>
    have hsel := segSelect_data hk n hn
    rw [if_pos hbad] at hsel
    simp [translate, hu, hk, hsel]
  case data =>
    have hsel := segSelect_data hk n hn
    rw [if_neg hgood] at hsel
    have hright : rightBit k = if k = .load then 2 else 1 := by
      cases k with
      | load | store => rfl
      | fetch => exact absurd rfl hk
    rw [translate_segment hu (fun h => hk h.1) hsel, hright]
    exact ⟨fun h => if_neg (Bool.eq_false_iff.1 h), fun h => by rw [if_pos h]; exact pageTranslate_cases _ s⟩
  case top =>
    have hnat : (va.setWidth 44).toNat = va.toNat := by
      rw [BitVec.toNat_setWidth, Nat.mod_eq_of_lt (va.isLt.trans (by decide))]
    refine ⟨va.setWidth 44, ?_, hnat⟩
    simp only [translate, hu, htop.2 h, and_self, if_true]
    exact pageTranslate_top (hnat ▸ h) s
  case fetch =>
    have hright : rightBit .fetch = 0 := rfl
    rw [translate_segment hu (fun hf => h (htop.1 hf.2)) (segSelect_fetch n hn), hright]
    exact ⟨fun h => if_neg (Bool.eq_false_iff.1 h), fun h => by rw [if_pos h]; exact pageTranslate_cases _ s⟩

end User

/-! ## The bytes of an access -/

variable {va : VAddr} {n : Nat} {k : Access} {s t : State} {pas : List Nat}

/-- Each byte of a range is translated on its own, at its address modulo 2^32 (20_memory.md R76). -/
theorem translateRange_getElem (h : translateRange va n k s = .ok pas) (j : Nat) (hj : j < n) :
    ∃ pa, translate (va + BitVec.ofNat 32 j) k s = .ok pa ∧ pas[j]? = some pa.toNat := by
  induction n generalizing va pas j with
  | zero => omega
  | succ n ih =>
    obtain ⟨pa, rest, h1, h2, rfl⟩ := translateRange_succ h
    cases j with
    | zero => exact ⟨pa, by simpa using h1, rfl⟩
    | succ j =>
      obtain ⟨pa', h1', hget⟩ := ih h2 j (by omega)
      refine ⟨pa', ?_, hget⟩
      rw [← h1', BitVec.add_assoc, BitVec.ofNat_add, BitVec.add_comm (1 : VAddr)]
      rfl

theorem memRead_memory (h : translateRange va n .load s = .ok pas) (hd : ∀ a ∈ pas, s.isDevice a = false) :
    memRead va n s = .ok (pas.map s.byteAt, s) := by
  simp [memRead, h, readBytes_of_memory pas s hd]

theorem memRead_device {pa : LAddr} (h : translate va .load s = .ok pa) (hd : s.isDevice pa.toNat = true) :
    memRead va 1 s = .ok ([s.drawn.extractLsb' 0 8], s.afterDraw) := by
  simp [memRead, translateRange, h, readBytes, readByte, hd]

theorem isWritable_of_isDevice {a : Nat} (h : s.isDevice a = true) : s.isWritable a = false := by
  simp [State.isWritable, h]

/-- Settles O28: translation byte by byte, memory or a draw, and the events of bytes that all lie in windows. -/
theorem accessBytes : Obligations.AccessBytes := by
  refine ⟨fun va n k s pas h => ⟨translateRange_length h, translateRange_getElem h⟩, fun va n s pas h hd => memRead_memory h hd,
    fun va s pa h hd => memRead_device h hd, fun va bytes s t pas hp ht hd => ?_⟩
  obtain ⟨pas', hp', rfl⟩ := memWrite_cases ht
  obtain rfl : pas = pas' := Except.ok.inj (hp.symm.trans hp')
  have hlen : (pas.zip bytes).length = bytes.length := by simp [translateRange_length hp]
  have hcells : ∀ c ∈ pas.zip bytes, s.isDevice c.1 = true := fun c hc => hd _ (List.of_mem_zip hc).1
  refine ⟨fun x => ?_, fun hne hal => ?_, fun hal => ?_⟩
  · refine byteAt_storeCells_of_not_mem _ _ _ _ ?_
    by_cases hx : x ∈ (pas.zip bytes).map Prod.fst
    · obtain ⟨c, hc, rfl⟩ := List.mem_map.1 hx
      exact .inr (isWritable_of_isDevice (hcells c hc))
    · exact .inl hx
  · have hsingle : singleCycle va (pas.zip bytes).length = true := by simp [singleCycle, hlen, hal]
    have hne' : pas.zip bytes ≠ [] := fun e => hne (List.length_eq_zero_iff.1 (hlen.symm.trans (congrArg List.length e)))
    rw [storeCells_single hsingle, ioEvent_all hcells hne']
    rfl
  · exact storeCells_split (by simp [singleCycle, hlen, hal]) hcells

/-- Bytes stored at writable addresses are what is read at them. -/
theorem map_byteAt_storeCells {bytes : List Byte} (hlen : pas.length = bytes.length) (hn : pas.Nodup)
    (hw : ∀ a ∈ pas, s.isWritable a = true) : pas.map (storeCells va (pas.zip bytes) s).byteAt = bytes := by
  have hfst : (pas.zip bytes).map Prod.fst = pas := List.map_fst_zip hlen.le
  refine List.ext_getElem (by simp [hlen]) fun j hj hj' => ?_
  have hjp : j < pas.length := by simpa using hj
  have hmem : (pas[j], bytes[j]) ∈ pas.zip bytes := List.mem_iff_getElem.2 ⟨j, by simp; omega, by simp⟩
  rw [List.getElem_map, byteAt_storeCells_of_mem (hfst.symm ▸ hn) hmem, if_pos (hw _ (List.getElem_mem hjp))]

/-- Settles O29: the load's addresses are the store's, each holding its byte. -/
theorem storeThenLoad : Obligations.StoreThenLoad := by
  intro va bytes s t pas hlen ht hstore hload hw
  obtain ⟨pas', hp', rfl⟩ := memWrite_cases ht
  obtain rfl : pas = pas' := Except.ok.inj (hstore.symm.trans hp')
  obtain ⟨m, st, io, d, hf⟩ := memWrite_frame ht
  have hload' : translateRange va bytes.length .load (storeCells va (pas.zip bytes) s) = .ok pas := by
    rw [← hload]
    exact translateRange_congr _ _ _ (by rw [hf]) (by rw [hf]) (by rw [hf]) (by rw [hf])
  have hdev : ∀ a ∈ pas, (storeCells va (pas.zip bytes) s).isDevice a = false := fun a ha =>
    (isDevice_congr (by rw [hf]) a).trans (isDevice_of_isWritable (hw a ha))
  rw [memRead_memory hload' hdev,
    map_byteAt_storeCells (translateRange_length hstore) (translateRange_nodup (by omega) hstore) hw]

end Sys2Proof.Machine
end

section
/-! PROOFS. 42_memory_instructions.md: loads and stores as their access and their register write. -/

namespace Sys2Proof.Machine

variable {i : Instr} {s : State} {rd rs1 rs2 : Reg} {imm : BitVec 12} {a : Word}

/-! ## Loads -/

/-- A result written after flags and draws: the flags are `fl`, nothing else differs from the state before but the
destination. -/
theorem finishX_drawn (v : Word) (fl : BitVec 5) (d : Nat) (h : Writable rd s) :
    ∃ t, finishX rd v { s with fflags := fl, draws := d } = .next t ∧ t.pc = s.pc + 4 ∧ WroteX rd v s t ∧ FloatSame s t ∧
      t.fflags = fl ∧ ControlSame s t ∧ MemorySame s t := by
  obtain ⟨t, ht, hpc, hx, hf, hfl, hc, hm⟩ := finishX_next (s := { s with fflags := fl, draws := d }) (v := v) h
  exact ⟨t, ht, hpc, hx, hf, hfl, ⟨{ hc.outside with }, { hc.guarded with }, { hc.trap with }, hc.frm⟩, { hm with }⟩

theorem loadFrom_of_read {n : Nat} (ha : readX .rs1 rs1 s = .ok a) :
    loadFrom rs1 imm n s = memRead (effectiveAddress a imm) n s := by
  simp [loadFrom, ha]

/-- An integer load puts the value of the bytes it reads into its destination. -/
theorem YieldsX.of_loadX {n : Nat} {value : List Byte → Word} {bytes : List Byte} {q : State} (ha : readX .rs1 rs1 s = .ok a)
    (hm : memRead (effectiveAddress a imm) n s = .ok (bytes, q)) (hw : Writable rd s)
    (he : exec i s = loadX rd rs1 imm n value s) : YieldsX i s rd (value bytes) := by
  rw [loadX, loadFrom_of_read ha, hm, orFault_ok] at he
  obtain ⟨pas, -, -, d, rfl⟩ := memRead_cases hm
  obtain ⟨t, ht, h⟩ := finishX_drawn (value bytes) s.fflags d hw
  exact ⟨t, he.trans ht, h⟩

/-- FLW puts the word it reads into its floating-point register. -/
theorem YieldsF.of_flw {bytes : List Byte} {q : State} (ha : readX .rs1 rs1 s = .ok a)
    (hm : memRead (effectiveAddress a imm) 4 s = .ok (bytes, q)) :
    YieldsF (.flw rd rs1 imm) s rd (leValue 32 bytes) 0 := by
  have he : exec (.flw rd rs1 imm) s = .next (q.setF rd (leValue 32 bytes)).advance := by
    simp [exec, execFlw, loadFrom_of_read ha, hm]
  obtain ⟨pas, -, -, d, rfl⟩ := memRead_cases hm
  obtain ⟨t, ht, hpc, hf, hx, hfl, hc, hm⟩ := finishF_next rd (leValue 32 bytes) 0 { s with draws := d }
  refine ⟨t, (he.trans ?_).trans ht, hpc, hf, hx, hfl, ⟨{ hc.outside with }, { hc.guarded with }, { hc.trap with }, hc.frm⟩,
    { hm with }⟩
  exact moveF_eq_finishF rd (leValue 32 bytes) { s with draws := d }

/-- Major opcode 3 is the loads (30_encoding.md R124). -/
theorem decode_load (f3 : BitVec 3) : decode (packI imm rs1 f3 rd 3) = decodeLoad (packI imm rs1 f3 rd 3) := by
  simp [decode]

/-- A load row runs as the load of its funct3. -/
theorem RunsX.of_loadX {f3 : BitVec 3} {n : Nat} {value : List Byte → Word} {bytes : List Byte} {q : State}
    (ha : readX .rs1 rs1 s = .ok a) (hm : memRead (effectiveAddress a imm) n s = .ok (bytes, q)) (hw : Writable rd s)
    (hd : decodeLoad (packI imm rs1 f3 rd 3) = .ok i) (he : exec i s = loadX rd rs1 imm n value s) :
    RunsX (packI imm rs1 f3 rd 3) i s rd (value bytes) :=
  ⟨(decode_load f3).trans hd, .of_loadX ha hm hw he⟩

/-- Settles O25: each row by its funct3, with the little-endian value of its bytes. -/
theorem loads : Obligations.Loads := by
  intro rd rs1 imm s a ha
  refine ⟨fun b0 q hm hw => ?bytes, fun b0 b1 q hm hw => ?halves, fun b0 b1 b2 b3 q hm => ⟨fun hw => ?lw, ?flw⟩⟩
  case bytes =>
    rw [← leValue_one b0]
    exact ⟨.of_loadX (value := fun b => sext64 (leValue 8 b)) ha hm hw (by simp [decodeLoad]) rfl,
      .of_loadX (value := fun b => zext64 (leValue 8 b)) ha hm hw (by simp [decodeLoad]) rfl⟩
  case halves =>
    rw [← leValue_two b0 b1]
    exact ⟨.of_loadX (value := fun b => sext64 (leValue 16 b)) ha hm hw (by simp [decodeLoad]) rfl,
      .of_loadX (value := fun b => zext64 (leValue 16 b)) ha hm hw (by simp [decodeLoad]) rfl⟩
  case lw =>
    rw [← leValue_four b0 b1 b2 b3]
    exact .of_loadX (value := fun b => sext64 (leValue 32 b)) ha hm hw (by simp [decodeLoad]) rfl
  case flw =>
    rw [← leValue_four b0 b1 b2 b3]
    exact ⟨by simp [decode, listedIf], .of_flw ha hm⟩

/-! ## Stores -/

/-- A store writes its bytes at the translated addresses and changes nothing else. -/
theorem YieldsStore.of_storeAt {bytes : List Byte} (hlen : bytes.length ≤ 65536) (he : exec i s = storeAt a imm bytes s) :
    YieldsStore i s (effectiveAddress a imm) bytes := by
  intro pas hp
  have hw : memWrite (effectiveAddress a imm) bytes s = .ok (storeCells (effectiveAddress a imm) (pas.zip bytes) s) := by
    simp [memWrite, hp]
  have hfst : (pas.zip bytes).map Prod.fst = pas := List.map_fst_zip (translateRange_length hp).le
  have hnodup : ((pas.zip bytes).map Prod.fst).Nodup := hfst.symm ▸ translateRange_nodup hlen hp
  have hother := byteAt_storeCells_of_not_mem (effectiveAddress a imm) (pas.zip bytes) s
  have hmem {c : Host.Cell} := byteAt_storeCells_of_mem (va := effectiveAddress a imm) (s := s) hnodup (c := c)
  have hstored := mem_stored_storeCells (effectiveAddress a imm) (pas.zip bytes) s
  obtain ⟨l, io, d, -, hcells, hio⟩ := storeCells_cases (effectiveAddress a imm) (pas.zip bytes) s
  rw [storeAt, hw, orFault_ok] at he
  generalize storeCells (effectiveAddress a imm) (pas.zip bytes) s = u at *
  obtain ⟨m, st, io', d', rfl⟩ := memWrite_frame hw
  refine ⟨_, he, rfl, .of_sets rfl rfl rfl, .of_file rfl, rfl,
    ⟨⟨rfl, rfl, rfl, rfl, rfl⟩, ⟨rfl, rfl, rfl, rfl, rfl, rfl, rfl, rfl, rfl⟩,
      ⟨rfl, rfl, rfl, rfl, rfl, rfl, rfl, rfl, rfl⟩, rfl⟩,
    fun x hx => hother x (.inl (hfst.symm ▸ hx)), fun k x b hx hb => ?_, fun x => ?_, fun hd => ?_⟩
  · refine hmem (c := (x, b)) (List.mem_iff_getElem?.2 ⟨k, ?_⟩)
    simp [List.getElem?_zip_eq_some, hx, hb]
  · have := hstored x
    rwa [hfst] at this
  · have hio' : io' = io := congrArg State.ioWrites hcells
    exact hio'.trans (hio fun c hc => hd _ (List.of_mem_zip hc).1)

theorem storeX_of_reads {b : Word} {n : Nat} (ha : readX .rs1 rs1 s = .ok a) (hb : readX .rs2 rs2 s = .ok b) :
    storeX rs2 rs1 imm n s = storeAt a imm (leBytes b n) s := by
  simp [storeX, ha, hb]

theorem execFsw_of_read (ha : readX .rs1 rs1 s = .ok a) :
    execFsw rs2 rs1 imm s = storeAt a imm (leBytes (s.fsingle rs2) 4) s := by
  simp [execFsw, ha]

@[simp] theorem leBytes_length {w : Nat} (v : BitVec w) (n : Nat) : (leBytes v n).length = n := by simp [leBytes]

/-- The bytes of a single-precision operand are the low bytes of its register (10_state.md R32). -/
theorem leBytes_fsingle (s : State) (i : Reg) : leBytes (s.fsingle i) 4 = leBytes (s.fval i) 4 := by
  refine List.map_congr_left fun k hk => ?_
  have hk : k < 4 := List.mem_range.1 hk
  unfold byteOf State.fsingle
  rw [BitVec.extractLsb'_extractLsb'_of_le (by omega)]

/-- Settles O26: each row by its funct3, with the low bytes of its source, the lowest first. -/
theorem stores : Obligations.Stores := by
  intro rs2 rs1 imm s a ha
  refine ⟨fun b hb => ⟨⟨?_, ?sb⟩, ⟨?_, ?sh⟩, ⟨?_, ?sw⟩⟩, ⟨?_, ?fsw⟩⟩
  case sb => exact .of_storeAt (bytes := leBytes b 1) (by simp) (storeX_of_reads ha hb)
  case sh => exact .of_storeAt (bytes := leBytes b 2) (by simp) (storeX_of_reads ha hb)
  case sw => exact .of_storeAt (bytes := leBytes b 4) (by simp) (storeX_of_reads ha hb)
  case fsw => exact .of_storeAt (bytes := leBytes (s.fval rs2) 4) (by simp) (leBytes_fsingle s rs2 ▸ execFsw_of_read ha)
  all_goals simp [decode, decodeStore, listedIf]

/-! ## Faults -/

theorem loadX_fault {n : Nat} {value : List Byte → Word} {f : Fault} (ha : readX .rs1 rs1 s = .ok a)
    (h : translateRange (effectiveAddress a imm) n .load s = .error f) : loadX rd rs1 imm n value s = .fault f := by
  simp [loadX, loadFrom_of_read ha, memRead, h]

theorem storeAt_fault {bytes : List Byte} {f : Fault}
    (h : translateRange (effectiveAddress a imm) bytes.length .store s = .error f) : storeAt a imm bytes s = .fault f := by
  simp [storeAt, memWrite, h]

/-- Settles O27: a load and a store translate their whole range first. -/
theorem accessFaults : Obligations.AccessFaults := by
  intro r rs1 imm s a f ha
  have store {b : Word} {n : Nat} (hb : readX .rs2 r s = .ok b) (h : translateRange (effectiveAddress a imm) n .store s = .error f) :
      storeX r rs1 imm n s = .fault f :=
    (storeX_of_reads ha hb).trans (storeAt_fault (by rwa [leBytes_length]))
  refine ⟨fun h => ?bytes, fun h => ?halves, fun h => ⟨?lw, ?flw⟩, fun b hb => ⟨store hb, store hb, store hb⟩, fun h => ?fsw⟩
  case bytes | halves => simp only [exec]; exact ⟨loadX_fault ha h, loadX_fault ha h⟩
  case lw => simp only [exec]; exact loadX_fault ha h
  case flw => simp [exec, execFlw, loadFrom_of_read ha, memRead, h]
  case fsw => exact (execFsw_of_read ha).trans (storeAt_fault h)

end Sys2Proof.Machine
end

section
/-! PROOFS. 10_state.md section 1.1, 40_integer.md, 41_control_flow.md section 4, 44_machine_mode.md section 3: operand
selection, the integer rows, the fences and the counter reads. -/

namespace Sys2Proof.Machine

variable {i : Instr} {s : State} {rd rs1 rs2 : Reg} {imm : BitVec 12} {a b : Word} {w : Tetra}

/-! ## Operand selection -/

theorem State.xval_of_ne (s : State) (b : RegSet) {i : Reg} (h : i ≠ 0) : s.xval b i = (s.bank b)[i.toNat]'i.isLt := if_neg h

theorem State.setX_of_ne (s : State) (b : RegSet) {i : Reg} (v : Word) (h : i ≠ 0) :
    s.setX b i v = s.setBank b ((s.bank b).set i.toNat v i.isLt) := if_neg h

/-- A role that selects set 3 reads nothing (10_state.md R27). -/
theorem readX_of_none {role : Role} {i : Reg} (hi : i ≠ 0) (h : s.roleSet role = none) :
    readX role i s = .error .regsetInvalid := by
  unfold readX
  rw [if_neg hi, h]

theorem writeX_of_none {v : Word} (hrd : rd ≠ 0) (h : s.roleSet .rd = none) : writeX rd v s = .error .regsetInvalid := by
  unfold writeX
  rw [if_neg hrd, h]

theorem writeX_of_set {c : RegSet} {v : Word} (hrd : rd ≠ 0) (h : s.roleSet .rd = some c) :
    writeX rd v s = .ok (s.setBank c ((s.bank c).set rd.toNat v rd.isLt)) := by
  unfold writeX
  rw [if_neg hrd, h]
  exact congrArg _ (s.setX_of_ne c v hrd)

/-- Settles O5: the selected number names the set that is read and written, or none. -/
theorem operandSelection : Obligations.OperandSelection := by
  intro s i role hi bit n
  have hrole : s.roleSet role = namedSet n := congrArg namedSet (by cases role <;> rfl)
  have reads {c : RegSet} (h : namedSet n = some c) : readX role i s = .ok ((s.bank c)[i.toNat]'i.isLt) := by
    rw [readX_of_set (hrole.trans h), State.xval_of_ne s c hi]
  have writes {c : RegSet} (hr : role = .rd) (h : namedSet n = some c) (v : Word) :
      writeX i v s = .ok (s.setBank c ((s.bank c).set i.toNat v i.isLt)) :=
    writeX_of_set hi ((hr ▸ hrole).trans h)
  refine ⟨fun h => reads (c := .set0) (by rw [h]; rfl), fun h => reads (c := .set1) (by rw [h]; rfl),
    fun h => reads (c := .set2) (by rw [h]; rfl), fun h => readX_of_none hi (hrole.trans (by rw [h]; rfl)),
    fun hr h v => writeX_of_none hi ((hr ▸ hrole).trans (by rw [h]; rfl)), fun hr h => writes (c := .set0) hr (by rw [h]; rfl),
    fun hr h => writes (c := .set1) hr (by rw [h]; rfl), fun hr h => writes (c := .set2) hr (by rw [h]; rfl)⟩

/-! ## Rows that end by writing a register -/

theorem RunsX.of_finishX {v : Word} (hw : Writable rd s) (hd : decode w = .ok i) (he : exec i s = finishX rd v s) :
    RunsX w i s rd v := ⟨hd, .of_finishX he hw⟩

theorem RunsX.of_regImm {f : Word → Word} {v : Word} (ha : readX .rs1 rs1 s = .ok a) (hw : Writable rd s)
    (hd : decode w = .ok i) (he : exec i s = regImm rd rs1 f s) (hv : f a = v) : RunsX w i s rd v :=
  .of_finishX hw hd (hv ▸ he.trans (regImm_of_read ha))

theorem RunsX.of_regReg {f : Word → Word → Word} {v : Word} (ha : readX .rs1 rs1 s = .ok a) (hb : readX .rs2 rs2 s = .ok b)
    (hw : Writable rd s) (hd : decode w = .ok i) (he : exec i s = regReg rd rs1 rs2 f s) (hv : f a b = v) : RunsX w i s rd v :=
  .of_finishX hw hd (hv ▸ he.trans (regReg_of_reads ha hb))

/-! ## Upper immediates -/

/-- imm[31:12] in place is concatenation with twelve zeros (30_encoding.md R138). -/
theorem upperImmediate_append (imm : BitVec 20) : upperImmediate imm = (imm ++ (0 : BitVec 12)).signExtend 64 :=
  congrArg sext64 (joinBits_append imm (0 : BitVec 12))

/-- Settles O16: both rows finish with the upper immediate, AUIPC's added to `pc`. -/
theorem upperImmediates : Obligations.UpperImmediates := by
  intro rd imm s hw
  rw [← upperImmediate_append]
  exact ⟨.of_finishX hw (by simp [decode]) rfl, .of_finishX hw (by simp [decode]) rfl⟩

/-! ## Immediate rows -/

/-- Major opcode 19 is the rows with an immediate (30_encoding.md R124). -/
theorem decode_aluImm (f3 : BitVec 3) : decode (packI imm rs1 f3 rd 19) = decodeAluImm (packI imm rs1 f3 rd 19) := by
  simp [decode]

/-- A row with an immediate runs as the row of its funct3. -/
theorem RunsX.of_aluImm {f3 : BitVec 3} {f : Word → Word} {v : Word} (ha : readX .rs1 rs1 s = .ok a) (hw : Writable rd s)
    (hd : decodeAluImm (packI imm rs1 f3 rd 19) = .ok i) (he : exec i s = regImm rd rs1 f s) (hv : f a = v) :
    RunsX (packI imm rs1 f3 rd 19) i s rd v := .of_regImm ha hw ((decode_aluImm f3).trans hd) he hv

/-- The signed comparison with a sign-extended immediate is that with the immediate (40_integer.md R164). -/
theorem boolWord_slt_sext (a : Word) (imm : BitVec 12) :
    boolWord (a.slt (sext64 imm)) = if a.toInt < imm.toInt then 1 else 0 := by
  rw [boolWord_slt, sext64, BitVec.toInt_signExtend_of_le (by decide)]

/-- The unsigned comparison as a result is that of the numbers (40_integer.md R165, R177). -/
theorem boolWord_ult (a b : Word) : boolWord (a.ult b) = if a.toNat < b.toNat then 1 else 0 := by
  simp [boolWord, BitVec.ult]

/-- Settles O17: the five rows, each by its funct3, and the two spellings. -/
theorem immediateArithmetic : Obligations.ImmediateArithmetic := by
  refine ⟨fun rd rs1 imm s a ha hw => ⟨?addi, ?slti, ?xori, ?ori, ?andi⟩, fun rd imm s hw => .of_finishX rfl hw, fun s => rfl⟩
  case addi => exact .of_aluImm ha hw (by simp [decodeAluImm]) rfl rfl
  case slti => exact .of_aluImm ha hw (by simp [decodeAluImm]) rfl (boolWord_slt_sext a imm)
  case xori => exact .of_aluImm ha hw (by simp [decodeAluImm]) rfl rfl
  case ori => exact .of_aluImm ha hw (by simp [decodeAluImm]) rfl rfl
  case andi => exact .of_aluImm ha hw (by simp [decodeAluImm]) rfl rfl

/-! ## Shifts -/

/-- The arithmetic shift divides the signed number, rounding down (40_integer.md R171). -/
theorem sshiftRight_eq_div (a : Word) (n : Nat) : a.sshiftRight n = BitVec.ofInt 64 (a.toInt / 2 ^ n) := by
  rw [BitVec.sshiftRight, Int.shiftRight_eq_div_pow]
  norm_cast

/-- Settles O18: the three rows by funct3 and funct6. -/
theorem immediateShifts : Obligations.ImmediateShifts := by
  intro rd rs1 shamt s a ha hw
  exact ⟨.of_regImm ha hw (by simp [decode, decodeAluImm, listedIf]) rfl rfl,
    .of_regImm ha hw (by simp [decode, decodeAluImm]) rfl rfl,
    .of_regImm ha hw (by simp [decode, decodeAluImm]) rfl (sshiftRight_eq_div a shamt.toNat)⟩

/-- The distance in a register is its number modulo 64 (40_integer.md R175). -/
theorem shiftCount_eq (b : Word) : shiftCount b = b.toNat % 64 := by
  simp [shiftCount]

/-- Settles O21: the three rows by funct3 and funct7. -/
theorem registerShifts : Obligations.RegisterShifts := by
  intro rd rs1 rs2 s a b ha hb hw
  rw [← shiftCount_eq]
  exact ⟨.of_regReg ha hb hw (by simp [decode, decodeAlu, decodeAluBase]) rfl rfl,
    .of_regReg ha hb hw (by simp [decode, decodeAlu, decodeAluBase]) rfl rfl,
    .of_regReg ha hb hw (by simp [decode, decodeAlu]) rfl (sshiftRight_eq_div a (shiftCount b))⟩

/-! ## Rows named by their mnemonic alone -/

/-- Settles O20: the four rows, SUB and MUL as the two's-complement results. -/
theorem mnemonicArithmetic : Obligations.MnemonicArithmetic := by
  intro rd rs1 rs2 imm s a ha hw
  refine ⟨.of_aluImm ha hw (by simp [decodeAluImm]) rfl (boolWord_ult a _), fun b hb => ⟨?sub, ?mul, ?sltu⟩⟩
  case sub =>
    have hsub : a - b = BitVec.ofInt 64 (a.toInt - b.toInt) :=
      BitVec.eq_of_toInt_eq (by rw [BitVec.toInt_sub, BitVec.toInt_ofInt])
    exact .of_regReg ha hb hw (by simp [decode, decodeAlu]) rfl hsub
  case mul =>
    have hmul : a * b = BitVec.ofInt 64 (a.toInt * b.toInt) := by rw [BitVec.ofInt_mul, BitVec.ofInt_toInt, BitVec.ofInt_toInt]
    exact .of_regReg ha hb hw (by simp [decode, decodeAlu, listedIf]) rfl hmul
  case sltu => exact .of_regReg ha hb hw (by simp [decode, decodeAlu, decodeAluBase]) rfl (boolWord_ult a b)

/-! ## Fences and counters -/

/-- Settles O24: both fences are the next instruction. -/
theorem fences : Obligations.Fences := fun pred succ _ => ⟨⟨decode_packFence pred succ, rfl⟩, by decide, rfl⟩

/-- The high half of a counter is the counter shifted (10_state.md R42). -/
theorem highHalf_eq (v : Word) : highHalf v = v >>> 32 := by
  apply BitVec.eq_of_toNat_eq
  have hv := v.isLt
  simp only [highHalf, zext64, BitVec.toNat_setWidth, BitVec.extractLsb'_toNat, BitVec.toNat_ushiftRight,
    Nat.shiftRight_eq_div_pow]
  omega

/-- Settles O51: each row finishes with its counter or the counter's high half. -/
theorem counterReads : Obligations.CounterReads := by
  intro rd s hw
  rw [← highHalf_eq, ← highHalf_eq, ← highHalf_eq]
  refine ⟨.of_finishX hw ?_ rfl, .of_finishX hw ?_ rfl, .of_finishX hw ?_ rfl, .of_finishX hw ?_ rfl, .of_finishX hw ?_ rfl,
    .of_finishX hw ?_ rfl⟩
  all_goals simp [decode, decodeSystem, decodeCsrrw]

end Sys2Proof.Machine
end

section
/-! PROOFS. 45_custom.md: the two swaps, the undescribed rows, and the machine-only rows in user mode. -/

namespace Sys2Proof.Machine

variable {s t u : State} {rd rs1 rs2 : Reg}

/-! ## Rows that only machine mode may run -/

theorem machineOnly_machine (h : s.mode = .machine) (r : Result) : machineOnly s r = r := by simp [machineOnly, h]

theorem machineOnly_user (h : s.mode = .user) (r : Result) : machineOnly s r = .fault .privilegedInUser := by
  simp [machineOnly, h]

/-- Settles O49: each of the sixteen is `undescribed` under its name. -/
theorem undescribedStop : Obligations.UndescribedStop := by
  intro i m s h hm
  cases i with
  | palloc | pfree | pfreeall | setto | getto | getzl | decto | insrdy | rmvrdy | getrdy | insiof | rmviof | nxtiof | prviof
  | lxx | sxx => cases h; exact machineOnly_machine hm _
  | _ => cases h

/-- Settles O50: each of these rows is `machineOnly` of something. -/
theorem machineOnlyInUser : Obligations.MachineOnlyInUser := by
  intro i s h hu
  cases i with
  | eret | wfi | pfi | mvseg | mvmap | palloc | pfree | pfreeall | setto | getto | getzl | decto | insrdy | rmvrdy | getrdy
  | insiof | rmviof | nxtiof | prviof | lxx | sxx => exact machineOnly_user hu _
  | _ => cases h

/-! ## The swaps -/

theorem WroteX.of_same {v : Word} (h : WroteX rd v s u) (hx : IntegerSame u t) : WroteX rd v s t :=
  ⟨fun b hn hb => (hx b rd).trans (h.1 b hn hb), fun c i hn => (hx c i).trans (h.2 c i hn)⟩

/-- Settles O47: the destination gets the segment register, which then gets Rs1. -/
theorem segmentSwap : Obligations.SegmentSwap := by
  intro rd rs1 rs2 s n hm hn
  have he : exec (.mvseg rd rs1 rs2) s = _ := machineOnly_machine hm _
  rw [hn, orFault_ok] at he
  refine ⟨fun h => he.trans (if_pos h), fun j a hj ha hw => ?_⟩
  have hindex : n.extractLsb' 0 4 = BitVec.ofFin j := BitVec.eq_of_toNat_eq (by
    rw [BitVec.extractLsb'_toNat, Nat.shiftRight_zero, hj]
    exact Nat.mod_eq_of_lt j.isLt)
  obtain ⟨u, hu⟩ := writeX_total (v := zext64 (s.segAt (BitVec.ofFin j))) hw
  obtain ⟨hpc, hfreg, hflags, -, -, hcontrol, hmem⟩ := writeX_frame hu
  rw [if_neg (by omega), ha, orFault_ok, hindex, hu, orFault_ok] at he
  refine ⟨_, he, by simp [hpc], (writeX_wrote hu).of_same (.of_sets rfl rfl rfl), ?_, .of_file hfreg, hflags, { hmem with },
    ⟨{ hcontrol.outside with }, { hcontrol.guarded with seg := rfl }, { hcontrol.trap with }, hcontrol.frm⟩⟩
  simp [hcontrol.guarded.seg]

/-- The selector is listed exactly where no bit outside its two fields is set (45_custom.md R334). -/
theorem selectorListed_iff (sel : Word) :
    selectorListed sel = true ↔ sel.toNat / 2 ^ 20 = 0 ∧ sel.toNat / 2 ^ 9 % 2 ^ 7 = 0 := by
  have hsel := sel.isLt
  rw [selectorListed, Bool.and_eq_true, beq_iff_eq, beq_iff_eq, ← BitVec.toNat_inj, ← BitVec.toNat_inj]
  simp only [BitVec.extractLsb'_toNat, Nat.shiftRight_eq_div_pow, BitVec.ofNat_eq_ofNat, BitVec.toNat_ofNat]
  omega

theorem selectorTask_eq {sel : Word} (h : sel.toNat / 2 ^ 20 = 0) : selectorTask sel = BitVec.ofNat 6 (sel.toNat / 2 ^ 16) := by
  apply BitVec.eq_of_toNat_eq
  simp only [selectorTask, BitVec.toNat_setWidth, BitVec.extractLsb'_toNat, Nat.shiftRight_eq_div_pow, BitVec.toNat_ofNat]
  omega

theorem selectorEntry_eq (sel : Word) : selectorEntry sel = BitVec.ofNat mapIndexBits (sel.toNat % 2 ^ 9) := by
  apply BitVec.eq_of_toNat_eq
  simp only [selectorEntry, BitVec.toNat_setWidth, BitVec.extractLsb'_toNat, Nat.shiftRight_zero, BitVec.toNat_ofNat]

/-- Settles O48: the destination gets the map entry, which then gets Rs1. -/
theorem mapSwap : Obligations.MapSwap := by
  intro rd rs1 rs2 s sel hm hsel
  have he : exec (.mvmap rd rs1 rs2) s = _ := machineOnly_machine hm _
  rw [hsel, orFault_ok] at he
  refine ⟨fun h => he.trans (if_pos ?_), fun a h20 h9 ha hw hwf => ?_⟩
  · have hnot : ¬selectorListed sel = true := mt (selectorListed_iff sel).1 (by tauto)
    simpa using hnot
  · intro task entry
    have htask : selectorTask sel = task := selectorTask_eq h20
    have hentry : selectorEntry sel = entry := selectorEntry_eq sel
    have hlisted := (selectorListed_iff sel).2 ⟨h20, h9⟩
    obtain ⟨u, hu⟩ := writeX_total (v := zext64 (s.mapAt task entry)) hw
    obtain ⟨hpc, hfreg, hflags, -, -, hcontrol, hmem⟩ := writeX_frame hu
    rw [if_neg (by simp [hlisted]), ha, orFault_ok, htask, hentry, hu, orFault_ok] at he
    have hmap := mapAt_setMap (s := u) (hcontrol.guarded.pageMap.symm ▸ hwf) (a := task) (v := entry)
      (e := a.extractLsb' 0 mapEntryBits)
    have hold (x : BitVec 6) (y : BitVec mapIndexBits) : u.mapAt x y = s.mapAt x y := by
      rw [State.mapAt, hcontrol.guarded.pageMap]
      rfl
    refine ⟨_, he, by simp [hpc], (writeX_wrote hu).of_same (.of_sets rfl rfl rfl), (hmap task entry).trans (if_pos ⟨rfl, rfl⟩),
      fun x y hne => (hmap x y).trans ((if_neg hne).trans (hold x y)), .of_file hfreg, hflags, { hmem with },
      ⟨{ hcontrol.outside with }, { hcontrol.guarded with pageMap := rfl }, { hcontrol.trap with }, hcontrol.frm⟩⟩

end Sys2Proof.Machine
end

section
/-! PROOFS. 10_state.md section 5, 44_machine_mode.md section 4: what each CSR reads, what its write changes, the six CSR
instructions and where they stop. -/

namespace Sys2Proof.Machine

variable {i : Instr} {s t u : State} {rd rs1 : Reg} {z : BitVec 5} {n : BitVec 12} {c : Csr} {v a : Word}

/-! ## Access -/

theorem csrAccess_machine (hm : s.mode = .machine) (h : csrOf n = some c) : csrAccess n s = .ok c := by
  simp [csrAccess, h, hm]

theorem csrAccess_unknown (h : csrOf n = none) : csrAccess n s = .error .csrUnknown := by
  simp [csrAccess, h]

theorem csrAccess_privilege (h : csrOf n = some c) (hu : s.mode = .user) (hc : userCsr c = false) :
    csrAccess n s = .error .csrPrivilege := by
  simp [csrAccess, h, hu, hc]

/-! ## Values -/

/-- `fcsr` is the rounding mode above the flags (10_state.md R41). -/
theorem csrRead_fcsr (s : State) : csrRead .fcsr s = (s.frm ++ s.fflags).setWidth 64 := by
  apply BitVec.eq_of_toNat_eq
  have happ : (s.frm ++ s.fflags).toNat = s.frm.toNat * 2 ^ 5 + s.fflags.toNat := by
    rw [← joinBits_append, joinBits_toNat (by decide)]
  have hlt := (s.frm ++ s.fflags).isLt
  rw [csrRead, joinBits_toNat (by decide), BitVec.toNat_setWidth, ← happ, Nat.mod_eq_of_lt (hlt.trans (by decide))]

/-- Settles O52: each number names its register; `mie` and `mip` show the sets bit by bit. -/
theorem csrValues : Obligations.CsrValues := by
  refine ⟨mieBit_timer, fun j k h hk => mieBit_injective h hk, ?_⟩
  intro s hm value
  have reads {n : BitVec 12} {c : Csr} {v : Word} (hn : csrOf n = some c) (hv : csrRead c s = v) : value n v :=
    ⟨c, csrAccess_machine hm hn, hv⟩
  exact ⟨reads rfl rfl, reads rfl rfl, reads rfl (csrRead_fcsr s), reads rfl rfl, reads rfl rfl, reads rfl rfl,
    reads rfl (highHalf_eq s.cycle), reads rfl (highHalf_eq s.time), reads rfl (highHalf_eq s.instret),
    reads rfl rfl, reads rfl rfl, reads rfl rfl, reads rfl rfl, reads rfl rfl, reads rfl rfl, reads rfl rfl, reads rfl rfl,
    reads rfl rfl, reads rfl rfl, reads rfl rfl, reads rfl rfl, reads rfl rfl,
    _, _, reads rfl rfl, reads rfl rfl, fun b hb => ⟨mieView_bit s.enabled b hb, mieView_bit s.pending b hb⟩⟩

/-! ## Writes -/

/-- The timer is bit 0 of a set of sources (60_exceptions.md R391). -/
theorem withoutTimer_bit (set : Word) (k : Nat) : (withoutTimer set).getLsbD k = (set.getLsbD k && decide (k ≠ 0)) := by
  by_cases hk : k < 64
  · have hbit : ((1 : Word) <<< timerSource.val).getLsbD k = decide (k = 0) := by simp [timerSource, BitVec.getLsbD_one]
    rw [withoutTimer, BitVec.getLsbD_and, BitVec.getLsbD_not, hbit]
    simp [hk]
  · rw [BitVec.getLsbD_of_ge _ k (by omega), BitVec.getLsbD_of_ge set k (by omega), Bool.false_and]

/-- Settles O53: each write is one update; `mie` keeps the machine's sources, `mtimecmp` withdraws the timer. -/
theorem csrWrites : Obligations.CsrWrites := fun s v =>
  ⟨rfl, rfl, rfl, rfl, rfl, rfl, rfl, rfl, rfl, rfl, ⟨mieSources v, rfl, fun k => sourceSet_bit _ k⟩,
    withoutTimer s.pending, rfl, (withoutTimer_bit _ 0).trans (by simp), fun k hk => (withoutTimer_bit _ k).trans (by simp [hk])⟩

/-! ## The six instructions -/

theorem exec_csrrw (rd rs1 : Reg) (n : BitVec 12) (s : State) :
    exec (.csrrw rd n rs1) s = csrInstr rd n (readX .rs1 rs1 s) true (fun _ a => a) s := rfl

theorem exec_csrrs (rd rs1 : Reg) (n : BitVec 12) (s : State) :
    exec (.csrrs rd n rs1) s = csrInstr rd n (readX .rs1 rs1 s) (rs1 != 0) (fun t a => t ||| a) s := rfl

theorem exec_csrrc (rd rs1 : Reg) (n : BitVec 12) (s : State) :
    exec (.csrrc rd n rs1) s = csrInstr rd n (readX .rs1 rs1 s) (rs1 != 0) (fun t a => t &&& ~~~a) s := rfl

theorem exec_csrrwi (rd : Reg) (z : BitVec 5) (n : BitVec 12) (s : State) :
    exec (.csrrwi rd n z) s = csrInstr rd n (.ok (z.setWidth 64)) true (fun _ a => a) s := rfl

theorem exec_csrrsi (rd : Reg) (z : BitVec 5) (n : BitVec 12) (s : State) :
    exec (.csrrsi rd n z) s = csrInstr rd n (.ok (z.setWidth 64)) (z != 0) (fun t a => t ||| a) s := rfl

theorem exec_csrrci (rd : Reg) (z : BitVec 5) (n : BitVec 12) (s : State) :
    exec (.csrrci rd n z) s = csrInstr rd n (.ok (z.setWidth 64)) (z != 0) (fun t a => t &&& ~~~a) s := rfl

/-- A register write replaces integer registers alone. -/
theorem writeX_sets (h : writeX rd v s = .ok u) : ∃ f0 f1 f2, u = { s with xset0 := f0, xset1 := f1, xset2 := f2 } := by
  obtain ⟨-, rfl⟩ | ⟨b, hr, -, rfl⟩ := writeX_cases h
  · exact ⟨u.xset0, u.xset1, u.xset2, rfl⟩
  · rw [State.setX_of_ne s b v hr]
    cases b <;> exact ⟨_, _, _, rfl⟩

/-- What a CSR write does, it does whatever the integer registers hold. -/
theorem csrWrite_with_sets (h : csrWrite c v s = .ok u) (f0 f1 f2 : RegFile) :
    csrWrite c v { s with xset0 := f0, xset1 := f1, xset2 := f2 } = .ok { u with xset0 := f0, xset1 := f1, xset2 := f2 } := by
  cases c <;> cases h <;> rfl

variable {operand : Except Fault Word} {writes : Bool} {f : Word → Word → Word}

/-- A CSR instruction that writes puts the old value into Rd and the new one into the CSR. -/
theorem YieldsCsr.of_csrInstr (hc : csrAccess n s = .ok c) (ha : operand = .ok a) (hw : Writable rd s)
    (hcw : csrWritable c = true) (hwrites : writes = true) (he : exec i s = csrInstr rd n operand writes f s)
    (hv : f (csrRead c s) a = v) : YieldsCsr i s rd c v := by
  obtain ⟨u, hu⟩ := csrWrite_total hcw v s
  obtain ⟨x, hx⟩ := writeX_total (v := csrRead c s) hw
  have hwrote := writeX_wrote hx
  obtain ⟨f0, f1, f2, rfl⟩ := writeX_sets hx
  have hcsr := csrWrite_with_sets hu f0 f1 f2
  rw [csrInstr, hc, orFault_ok, ha, orFault_ok, hx, orFault_ok, if_pos hwrites, hv, hcsr, orFault_ok] at he
  obtain ⟨hpc, -, -, -, hfreg, hmem, hstored, hio, -⟩ := csrWrite_frame hu
  exact ⟨_, u, he, hu, congrArg (· + 4) hpc, hwrote.of_same (.of_sets rfl rfl rfl), .of_file hfreg, rfl,
    ⟨⟨rfl, rfl, rfl, rfl, rfl⟩, ⟨rfl, rfl, rfl, rfl, rfl, rfl, rfl, rfl, rfl⟩, ⟨rfl, rfl, rfl, rfl, rfl, rfl, rfl, rfl, rfl⟩, rfl⟩,
    .of_fields hmem hstored hio⟩

/-- A CSR instruction that does not write puts the value into Rd. -/
theorem YieldsX.of_csrInstr (hc : csrAccess n s = .ok c) (ha : operand = .ok a) (hw : Writable rd s)
    (hwrites : writes = false) (he : exec i s = csrInstr rd n operand writes f s) : YieldsX i s rd (csrRead c s) := by
  refine .of_finishX (he.trans ?_) hw
  subst hwrites
  rw [csrInstr, hc, orFault_ok, ha, orFault_ok]
  rfl

/-- Settles O54: the forms differ in the operand, the new value and whether a zero field writes. -/
theorem csrInstructions : Obligations.CsrInstructions := by
  intro rd rs1 z n s c a hc ha hw
  refine ⟨fun hcw => ⟨?csrrw, ?csrrwi, fun h1 => ⟨?csrrs, ?csrrc⟩, fun hz => ⟨?csrrsi, ?csrrci⟩⟩, ?_, ?_, ?_, ?_⟩
  case csrrw => exact .of_csrInstr hc ha hw hcw rfl (exec_csrrw ..) rfl
  case csrrwi => exact .of_csrInstr hc rfl hw hcw rfl (exec_csrrwi ..) rfl
  case csrrs => exact .of_csrInstr hc ha hw hcw (bne_iff_ne.2 h1) (exec_csrrs ..) rfl
  case csrrc => exact .of_csrInstr hc ha hw hcw (bne_iff_ne.2 h1) (exec_csrrc ..) rfl
  case csrrsi => exact .of_csrInstr hc rfl hw hcw (bne_iff_ne.2 hz) (exec_csrrsi ..) rfl
  case csrrci => exact .of_csrInstr hc rfl hw hcw (bne_iff_ne.2 hz) (exec_csrrci ..) rfl
  · exact .of_csrInstr hc (readX_zero .rs1 s) hw rfl (exec_csrrs ..)
  · exact .of_csrInstr hc (readX_zero .rs1 s) hw rfl (exec_csrrc ..)
  · exact .of_csrInstr hc rfl hw rfl (exec_csrrsi ..)
  · exact .of_csrInstr hc rfl hw rfl (exec_csrrci ..)

/-! ## Stops -/

theorem csrInstr_fault {e : Fault} (h : csrAccess n s = .error e) : csrInstr rd n operand writes f s = .fault e := by
  rw [csrInstr, h, orFault_error]

/-- A CSR instruction that would write a register no write has an effect on stops with that register's fault. -/
theorem csrInstr_write_fault {e : Fault} (hc : csrAccess n s = .ok c) (he : ∀ v t, csrWrite c v t = .error e)
    (ha : operand = .ok a) (hw : Writable rd s) (hwrites : writes = true) : csrInstr rd n operand writes f s = .fault e := by
  obtain ⟨u, hu⟩ := writeX_total (v := csrRead c s) hw
  rw [csrInstr, hc, orFault_ok, ha, orFault_ok, hu, orFault_ok, if_pos hwrites, he, orFault_error]

/-- Every listed number is one of the twenty-four (10_state.md R40, R42). -/
theorem csrOf_listed (h : csrOf n = some c) :
    n ∈ ([0x001, 0x002, 0x003, 0xC00, 0xC01, 0xC02, 0xC80, 0xC81, 0xC82] : List (BitVec 12)) ∨
      n ∈ ([0xF00, 0xF01, 0xF10, 0x300, 0x301, 0x304, 0x321, 0x701, 0x340, 0x341, 0x342, 0x343, 0x344, 0x181, 0x790] :
        List (BitVec 12)) := by
  unfold csrOf at h
  split at h
  case h_25 => cases h
  all_goals decide

/-- Numbers of the machine's list are guarded (10_state.md R52). -/
theorem csrOf_guarded (h : n ∈ ([0xF00, 0xF01, 0xF10, 0x300, 0x301, 0x304, 0x321, 0x701, 0x340, 0x341, 0x342, 0x343, 0x344,
    0x181, 0x790] : List (BitVec 12))) : ∃ c, csrOf n = some c ∧ userCsr c = false := by
  have hlist : ∀ m ∈ ([0xF00, 0xF01, 0xF10, 0x300, 0x301, 0x304, 0x321, 0x701, 0x340, 0x341, 0x342, 0x343, 0x344, 0x181,
    0x790] : List (BitVec 12)), (csrOf m).any (fun c => !userCsr c) = true := by decide
  obtain ⟨c, hc, hguard⟩ := (Option.any_eq_true _ _).1 (hlist n h)
  exact ⟨c, hc, by simpa using hguard⟩

/-- Counters and identification registers take no write (10_state.md R43). -/
theorem csrOf_readOnly (h : n ∈ ([0xC00, 0xC01, 0xC02, 0xC80, 0xC81, 0xC82, 0xF00, 0xF01, 0xF10] : List (BitVec 12))) :
    ∃ c, csrOf n = some c ∧ ∀ v t, csrWrite c v t = .error .csrReadOnlyWrite := by
  simp only [List.mem_cons, List.not_mem_nil, or_false] at h
  rcases h with rfl | rfl | rfl | rfl | rfl | rfl | rfl | rfl | rfl <;> exact ⟨_, rfl, fun _ _ => rfl⟩

/-- What a write of `mtvec`, `mip` or `mtime` does is not specified (10_state.md R45). -/
theorem csrOf_unspecified (h : n ∈ ([0x301, 0x344, 0x701] : List (BitVec 12))) :
    ∃ c, csrOf n = some c ∧ ∀ v t, csrWrite c v t = .error .csrWriteUnspecified := by
  simp only [List.mem_cons, List.not_mem_nil, or_false] at h
  rcases h with rfl | rfl | rfl <;> exact ⟨_, rfl, fun _ _ => rfl⟩

/-- Settles O55: the access check stops first, then the write of a register that has none. -/
theorem csrStops : Obligations.CsrStops := by
  intro rd rs1 z n s forms user machine
  have access {e : Fault} (h : csrAccess n s = .error e) : ∀ i ∈ forms, exec i s = .fault e := by
    simp only [forms, List.forall_mem_cons, List.not_mem_nil, false_imp_iff, implies_true, and_true, exec_csrrw, exec_csrrs,
      exec_csrrc, exec_csrrwi, exec_csrrsi, exec_csrrci, csrInstr_fault h]
  refine ⟨fun hnu hnm => access (csrAccess_unknown ?_), fun hn hu => ?_, fun a hm ha h1 hz hw => ?_⟩
  · cases hc : csrOf n with
    | none => rfl
    | some c => exact absurd (csrOf_listed hc) (not_or.2 ⟨hnu, hnm⟩)
  · obtain ⟨c, hc, hguard⟩ := csrOf_guarded hn
    exact access (csrAccess_privilege hc hu hguard)
  · have write {c : Csr} {e : Fault} (hc : csrOf n = some c) (he : ∀ v t, csrWrite c v t = .error e) :
        ∀ i ∈ Instr.csrrwi rd n 0 :: .csrrw rd n 0 :: forms, exec i s = .fault e := by
      have stops {operand : Except Fault Word} {b : Word} {writes : Bool} {f : Word → Word → Word} (hb : operand = .ok b)
          (hwrites : writes = true) : csrInstr rd n operand writes f s = .fault e :=
        csrInstr_write_fault (csrAccess_machine hm hc) he hb hw hwrites
      simp only [forms, List.forall_mem_cons, List.not_mem_nil, false_imp_iff, implies_true, and_true, exec_csrrw, exec_csrrs,
        exec_csrrc, exec_csrrwi, exec_csrrsi, exec_csrrci]
      exact ⟨stops rfl rfl, stops (readX_zero .rs1 s) rfl, stops ha rfl, stops ha (bne_iff_ne.2 h1), stops ha (bne_iff_ne.2 h1),
        stops rfl rfl, stops rfl (bne_iff_ne.2 hz), stops rfl (bne_iff_ne.2 hz)⟩
    refine ⟨fun hn => ?_, fun hn => ?_⟩
    · obtain ⟨c, hc, he⟩ := csrOf_readOnly hn
      exact fun i hi => write hc he i (List.mem_cons.2 ((List.mem_cons.1 hi).imp_right (List.mem_cons_of_mem _)))
    · obtain ⟨c, hc, he⟩ := csrOf_unspecified hn
      exact write hc he

end Sys2Proof.Machine
end

section
/-! PROOFS. 43_floating_point.md sections 1 and 4: the value of a pattern, tied to the model's order key, integer test and root
test. -/

namespace Sys2Proof.Machine

variable {p a b : Tetra} {z : Int}

/-! ## Bits 30..0 -/

theorem isZero_iff : isZero p = true ↔ p.extractLsb' 0 31 = 0 := by
  rw [isZero, Bool.and_eq_true, beq_iff_eq, beq_iff_eq, ← BitVec.toNat_inj, ← BitVec.toNat_inj, ← BitVec.toNat_inj, low31_toNat]
  simp only [BitVec.ofNat_eq_ofNat, BitVec.toNat_ofNat]
  omega

/-- Exponent all ones and mantissa zero, as a number in bits 30..0 (43_floating_point.md R252). -/
def infinityKey : Nat := 255 * 2 ^ 23

/-- The bits 30..0 of a pattern that is no NaN are at most those of infinity, and they are those where the exponent is all ones. -/
theorem low31_of_not_isNaN (h : isNaN p = false) :
    (p.extractLsb' 0 31).toNat ≤ infinityKey ∧ ((p.extractLsb' 0 31).toNat = infinityKey ↔ fpExponent p = 0xFF) := by
  have hm := (fpMantissa p).isLt
  have he := (fpExponent p).isLt
  rw [low31_toNat, infinityKey]
  by_cases hx : fpExponent p = 0xFF
  · have hzero : fpMantissa p = 0 := by simpa [isNaN, hx] using h
    simp [hx, hzero]
  · have hne : (fpExponent p).toNat ≠ 255 := fun e => hx (BitVec.eq_of_toNat_eq e)
    simp only [hx, iff_false]
    omega

/-! ## The order of magnitudes -/

/-- The magnitude that bits 30..0 stand for, read as a number (43_floating_point.md R250 (d)). -/
def keyMagnitude (k : Nat) : Nat :=
  if k / 2 ^ 23 = 0 then k % 2 ^ 23 else (2 ^ 23 + k % 2 ^ 23) * 2 ^ (k / 2 ^ 23 - 1)

theorem fpMagnitude_eq_keyMagnitude (p : Tetra) : fpMagnitude p = keyMagnitude (p.extractLsb' 0 31).toNat := by
  have hm := (fpMantissa p).isLt
  have hdiv : (p.extractLsb' 0 31).toNat / 2 ^ 23 = (fpExponent p).toNat := by rw [low31_toNat]; omega
  have hmod : (p.extractLsb' 0 31).toNat % 2 ^ 23 = (fpMantissa p).toNat := by rw [low31_toNat]; omega
  rw [keyMagnitude, hdiv, hmod, fpMagnitude_eq]

/-- The next number in bits 30..0 is the next larger magnitude: within an exponent the mantissa grows, and a full mantissa is
followed by the next exponent with none. -/
theorem keyMagnitude_lt_succ (k : Nat) : keyMagnitude k < keyMagnitude (k + 1) := by
  have hlt : k % 2 ^ 23 < 2 ^ 23 := Nat.mod_lt _ (by decide)
  by_cases hfull : k % 2 ^ 23 + 1 = 2 ^ 23
  · have hdiv : (k + 1) / 2 ^ 23 = k / 2 ^ 23 + 1 := by omega
    have hmod : (k + 1) % 2 ^ 23 = 0 := by omega
    rw [keyMagnitude, keyMagnitude, hdiv, hmod, if_neg (Nat.succ_ne_zero _), Nat.add_sub_cancel, Nat.add_zero]
    split
    · next h0 => rw [h0]; omega
    · next h0 =>
      obtain ⟨e, he⟩ := Nat.exists_eq_succ_of_ne_zero h0
      rw [he, Nat.succ_sub_one, pow_succ' 2 e, ← mul_assoc]
      exact Nat.mul_lt_mul_of_pos_right (by omega) (by positivity)
  · have hdiv : (k + 1) / 2 ^ 23 = k / 2 ^ 23 := by omega
    have hmod : (k + 1) % 2 ^ 23 = k % 2 ^ 23 + 1 := by omega
    rw [keyMagnitude, keyMagnitude, hdiv, hmod]
    split
    · exact Nat.lt_succ_self _
    · exact Nat.mul_lt_mul_of_pos_right (by omega) (by positivity)

theorem keyMagnitude_strictMono : StrictMono keyMagnitude := strictMono_nat_of_lt_succ keyMagnitude_lt_succ

/-! ## The order of values -/

/-- The magnitude with the key's sign. -/
def keyNumber (k : Int) : Int := signed (decide (k < 0)) (keyMagnitude k.natAbs)

theorem keyNumber_strictMono : StrictMono keyNumber := by
  intro k l hkl
  have hzero : keyMagnitude 0 = 0 := rfl
  unfold keyNumber signed
  rcases lt_or_ge k 0 with hk | hk <;> rcases lt_or_ge l 0 with hl | hl
  · have := keyMagnitude_strictMono (show l.natAbs < k.natAbs by omega)
    simp [hk, hl, this]
  · have := keyMagnitude_strictMono (show 0 < k.natAbs by omega)
    simp only [hk, not_lt.2 hl, decide_true, decide_false, if_true, Bool.false_eq_true, if_false]
    omega
  · omega
  · have := keyMagnitude_strictMono (show k.natAbs < l.natAbs by omega)
    simp [not_lt.2 hk, not_lt.2 hl, this]

/-- The value an order key stands for: the two infinities at the ends, magnitudes with their sign between them. -/
def keyValue (k : Int) : FpValue :=
  if k = -(infinityKey : Int) then ⊥
  else if k = infinityKey then ((⊤ : WithTop Int) : FpValue)
  else ((keyNumber k : WithTop Int) : FpValue)

theorem keyValue_strictMonoOn : StrictMonoOn keyValue {k | k.natAbs ≤ infinityKey} := by
  intro k hk l hl hkl
  simp only [Set.mem_ofPred_eq] at hk hl
  have hl' : l ≠ -(infinityKey : Int) := by omega
  have hk' : k ≠ infinityKey := by omega
  unfold keyValue
  rw [if_neg hl', if_neg hk']
  split
  · split <;> exact WithBot.bot_lt_coe _
  · rw [← apply_ite (WithBot.some), WithBot.coe_lt_coe]
    split
    · exact WithTop.coe_lt_top _
    · exact WithTop.coe_lt_coe.2 (keyNumber_strictMono hkl)

theorem fpKey_eq (p : Tetra) : fpKey p = signed p.msb (p.extractLsb' 0 31).toNat := rfl

theorem fpKey_natAbs (p : Tetra) : (fpKey p).natAbs = (p.extractLsb' 0 31).toNat := by
  rw [fpKey_eq]
  cases p.msb
  · exact Int.natAbs_natCast _
  · exact (Int.natAbs_neg _).trans (Int.natAbs_natCast _)

theorem keyNumber_fpKey (p : Tetra) : keyNumber (fpKey p) = signed p.msb (fpMagnitude p) := by
  rw [keyNumber, fpKey_natAbs, fpMagnitude_eq_keyMagnitude, fpKey_eq]
  generalize (p.extractLsb' 0 31).toNat = n
  cases p.msb
  · simp [signed]
  · rcases Nat.eq_zero_or_pos n with rfl | hn
    · rfl
    · simp [signed, hn]

theorem fpValue_of_finite (h : fpExponent p ≠ 0xFF) : fpValue p = ((signed p.msb (fpMagnitude p) : WithTop Int) : FpValue) := by
  rw [fpValue, if_neg h]
  cases p.msb <;> rfl

/-- The model's order key orders the patterns by their value. -/
theorem fpValue_eq_keyValue (h : isNaN p = false) : fpValue p = keyValue (fpKey p) := by
  obtain ⟨hle, hinf⟩ := low31_of_not_isNaN h
  have habs := fpKey_natAbs p
  by_cases hx : fpExponent p = 0xFF
  · have hkey : fpKey p = signed p.msb infinityKey := by rw [fpKey_eq, hinf.2 hx]
    rw [fpValue, if_pos hx, hkey]
    cases p.msb <;> rfl
  · have hne : (p.extractLsb' 0 31).toNat ≠ infinityKey := mt hinf.1 hx
    rw [fpValue_of_finite hx, keyValue, if_neg (by omega), if_neg (by omega), keyNumber_fpKey]

theorem fpKey_mem (h : isNaN p = false) : fpKey p ∈ {k : Int | k.natAbs ≤ infinityKey} :=
  (fpKey_natAbs p).trans_le (low31_of_not_isNaN h).1

theorem fpValue_lt_iff (ha : isNaN a = false) (hb : isNaN b = false) : fpValue a < fpValue b ↔ fpKey a < fpKey b := by
  rw [fpValue_eq_keyValue ha, fpValue_eq_keyValue hb]
  exact keyValue_strictMonoOn.lt_iff_lt (fpKey_mem ha) (fpKey_mem hb)

theorem fpValue_le_iff (ha : isNaN a = false) (hb : isNaN b = false) : fpValue a ≤ fpValue b ↔ fpKey a ≤ fpKey b := by
  rw [fpValue_eq_keyValue ha, fpValue_eq_keyValue hb]
  exact keyValue_strictMonoOn.le_iff_le (fpKey_mem ha) (fpKey_mem hb)

theorem fpValue_eq_iff (ha : isNaN a = false) (hb : isNaN b = false) : fpValue a = fpValue b ↔ fpKey a = fpKey b := by
  rw [fpValue_eq_keyValue ha, fpValue_eq_keyValue hb]
  exact keyValue_strictMonoOn.injOn.eq_iff (fpKey_mem ha) (fpKey_mem hb)

/-! ## The conditions of the comparisons (43_floating_point.md R265 to R267) -/

theorem fpLess_iff : fpLess a b = true ↔ (isNaN a = false ∧ isNaN b = false) ∧ fpValue a < fpValue b := by
  simp only [fpLess, Bool.and_eq_true, Bool.not_eq_true', decide_eq_true_eq]
  exact and_congr_right fun ⟨ha, hb⟩ => (fpValue_lt_iff ha hb).symm

theorem fpLessEqual_iff : fpLessEqual a b = true ↔ (isNaN a = false ∧ isNaN b = false) ∧ fpValue a ≤ fpValue b := by
  simp only [fpLessEqual, Bool.and_eq_true, Bool.not_eq_true', decide_eq_true_eq]
  exact and_congr_right fun ⟨ha, hb⟩ => (fpValue_le_iff ha hb).symm

theorem fpEqual_iff : fpEqual a b = true ↔ (isNaN a = false ∧ isNaN b = false) ∧ fpValue a = fpValue b := by
  simp only [fpEqual, Bool.and_eq_true, Bool.not_eq_true', beq_iff_eq]
  exact and_congr_right fun ⟨ha, hb⟩ => (fpValue_eq_iff ha hb).symm

/-! ## Integer values, negative values, roots -/

theorem fpValue_eq_int_iff : fpValue p = ((z : WithTop Int) : FpValue) ↔ fpExponent p ≠ 0xFF ∧ signed p.msb (fpMagnitude p) = z := by
  by_cases hx : fpExponent p = 0xFF
  · simp only [fpValue, hx, ne_eq, not_true_eq_false, false_and, iff_false]
    cases p.msb
    · exact fun h => WithTop.top_ne_coe (WithBot.coe_injective h)
    · exact WithBot.bot_ne_coe
  · rw [fpValue_of_finite hx, WithBot.coe_inj, WithTop.coe_inj]
    exact (and_iff_right hx).symm

/-- The model's integer test is about the pattern's value, in units of 2^-149. -/
theorem fpIsInteger_iff_fpValue : fpIsInteger p z = true ↔ fpValue p = ((z * 2 ^ 149 : Int) : WithTop Int) :=
  fpIsInteger_iff.trans fpValue_eq_int_iff.symm

/-- A pattern below zero has the sign set and is no zero. -/
theorem isNegative_of_fpValue (hn : isNaN p = false) (h : fpValue p < fpValue 0) : isNegative p = true := by
  have hkey : fpKey p < 0 := (fpValue_lt_iff hn (by decide)).1 h
  have hsign : p.msb = true := by
    rw [fpKey_eq] at hkey
    by_contra hpos
    rw [eq_false_of_ne_true hpos] at hkey
    exact absurd hkey (Int.natCast_nonneg _).not_gt
  have hzero : isZero p = false := by
    by_contra hz
    have habs := fpKey_natAbs p
    rw [isZero_iff.1 (eq_true_of_ne_false hz)] at habs
    exact hkey.ne (Int.natAbs_eq_zero.1 habs)
  simp [isNegative, hsign, hzero, hn]

/-- A pattern with a positive integer in units of 2^-149 as its value has the sign clear and that magnitude. -/
theorem magnitude_of_fpValue {x : Nat} (hx : x ≠ 0) (h : fpValue p = (((x : Int) : WithTop Int) : FpValue)) :
    fpExponent p ≠ 0xFF ∧ p.msb = false ∧ fpMagnitude p = x := by
  obtain ⟨he, hv⟩ := fpValue_eq_int_iff.1 h
  refine ⟨he, ?_⟩
  cases hs : p.msb <;> rw [hs] at hv <;> simp only [signed, if_true, Bool.false_eq_true, if_false] at hv
  · exact ⟨rfl, by omega⟩
  · omega

/-- The model's root test follows from the values of the two patterns. -/
theorem fpIsRoot_of_fpValue {x y : Nat} (hx : x ≠ 0) (ha : fpValue a = (((x : Int) : WithTop Int) : FpValue))
    (hy : y * y = x * 2 ^ 149) (hb : fpValue b = (((y : Int) : WithTop Int) : FpValue)) : fpIsRoot a b = true := by
  have hy0 : y ≠ 0 := by
    rintro rfl
    exact mul_ne_zero hx (by decide) hy.symm
  obtain ⟨hea, hsa, hma⟩ := magnitude_of_fpValue hx ha
  obtain ⟨heb, hsb, hmb⟩ := magnitude_of_fpValue hy0 hb
  exact fpIsRoot_iff.2 ⟨hea, heb, hsa, hsb, hma.trans_ne hx, by rw [hma, hmb, hy]⟩

end Sys2Proof.Machine
end

section
/-! PROOFS. 43_floating_point.md: rounding modes, arithmetic, comparisons, conversions and moves. -/

namespace Sys2Proof.Machine

variable {i : Instr} {s : State} {rd frd frs1 frs2 : Reg} {rm : BitVec 3} {m : RoundingMode} {p a b : Tetra} {z : Int}

/-! ## Completion -/

theorem YieldsF.of_finishF {r : Tetra} {fl : BitVec 5} (he : exec i s = finishF frd r fl s) : YieldsF i s frd r fl := by
  obtain ⟨t, ht, h⟩ := finishF_next frd r fl s
  exact ⟨t, he.trans ht, h⟩

/-- With a valid rounding mode an instruction goes on in that mode. -/
theorem exec_of_roundingMode {k : RoundingMode → Result} (hm : roundingMode rm s = .ok m)
    (he : exec i s = orFault (roundingMode rm s) k) : exec i s = k m := by
  rw [he, hm, orFault_ok]

theorem YieldsF.of_fpBinary {op : RoundingMode → Tetra → Tetra → Tetra × BitVec 5} (hm : roundingMode rm s = .ok m)
    (he : exec i s = fpBinary op frd frs1 frs2 rm s) :
    YieldsF i s frd (op m (s.fsingle frs1) (s.fsingle frs2)).1 (op m (s.fsingle frs1) (s.fsingle frs2)).2 :=
  .of_finishF (exec_of_roundingMode hm he)

theorem YieldsF.of_fpUnary {op : RoundingMode → Tetra → Tetra × BitVec 5} (hm : roundingMode rm s = .ok m)
    (he : exec i s = orFault (roundingMode rm s) fun m => finishF frd (op m (s.fsingle frs1)).1 (op m (s.fsingle frs1)).2 s) :
    YieldsF i s frd (op m (s.fsingle frs1)).1 (op m (s.fsingle frs1)).2 :=
  .of_finishF (exec_of_roundingMode hm he)

/-! ## Rounding modes -/

/-- Codes 5, 6 and 7 name no rounding mode (43_floating_point.md R251). -/
theorem roundingOf_invalid : ∀ code : BitVec 3, 4 < code.toNat → roundingOf code = .error .fpRoundingModeInvalid := by decide

/-- Settles O34: the dynamic mode is looked up first, and every instruction with a mode field asks for the mode first. -/
theorem roundingModes : Obligations.RoundingModes := by
  intro rm s code
  have hcode : roundingMode rm s = roundingOf code := rfl
  refine ⟨fun h => ?_, fun h => ?_, fun h => ?_, fun h => ?_, fun h => ?_, fun h d x y => ?_⟩
  iterate 5 rw [hcode, h]; rfl
  have hbad : roundingMode rm s = .error .fpRoundingModeInvalid := roundingOf_invalid code h
  have stops {i : Instr} {k : RoundingMode → Result} (he : exec i s = orFault (roundingMode rm s) k) :
      exec i s = .fault .fpRoundingModeInvalid := by
    rw [he, hbad, orFault_error]
  exact ⟨stops rfl, stops rfl, stops rfl, stops rfl, stops rfl, stops rfl, stops rfl, stops rfl, stops rfl⟩

/-! ## Addition, subtraction, multiplication, division -/

/-- The places of the flags (10_state.md R41). -/
theorem packFlags_bits (nv dz ov uf nx : Bool) :
    (packFlags nv dz ov uf nx).getLsbD 4 = nv ∧ (packFlags nv dz ov uf nx).getLsbD 3 = dz ∧
      (packFlags nv dz ov uf nx).getLsbD 2 = ov ∧ (packFlags nv dz ov uf nx).getLsbD 1 = uf := by
  revert nv dz ov uf nx
  decide

/-- Ones in the exponent and in bit 0 make a NaN of any pattern (43_floating_point.md R250). -/
theorem isNaN_or (p : Tetra) : isNaN (p ||| 0x7F800001) = true := by
  have hexp : fpExponent (p ||| 0x7F800001) = 0xFF := by
    rw [fpExponent, BitVec.extractLsb'_or]
    exact BitVec.or_allOnes
  have hman : fpMantissa (p ||| 0x7F800001) ≠ 0 := fun h => by
    have hbit := congrArg (·.getLsbD 0) h
    simp [fpMantissa] at hbit
  rw [isNaN, Bool.and_eq_true, beq_iff_eq, bne_iff_ne]
  exact ⟨hexp, hman⟩

theorem isNaN_someNaN (p : Tetra) : isNaN (someNaN p) = true := by
  unfold someNaN
  split
  · assumption
  · exact isNaN_or p

theorem isNaN_nanRule {r : Tetra} (h : isNaN a = true ∨ isNaN b = true) : isNaN (nanRule a b r) = true := by
  rw [nanRule, if_pos (by simpa using h)]
  exact isNaN_someNaN r

/-- The four operations in the order of the statement. -/
def fpArith (op : Fin 4) : RoundingMode → Tetra → Tetra → Tetra × BitVec 5 :=
  match op with
  | 0 => fpAdd
  | 1 => fpSub
  | 2 => fpMul
  | 3 => fpDiv

/-- Each operation applies the NaN rule and takes its flags from its result; only a division's divisor sets `dz`. -/
theorem fpArith_shape (op : Fin 4) (m : RoundingMode) (a b : Tetra) :
    ∃ r nx, (fpArith op m a b).1 = nanRule a b r ∧
      (fpArith op m a b).2 = arithFlags (decide (op = 3) && isZero b) nx (nanRule a b r) := by
  match op with
  | 0 => exact ⟨_, _, rfl, rfl⟩
  | 1 => exact ⟨_, _, rfl, rfl⟩
  | 2 => exact ⟨_, _, rfl, rfl⟩
  | 3 => exact ⟨_, _, rfl, rfl⟩

/-- Settles O33: one function of operation, mode and operands, whose flags are those R252 defines of its result. -/
theorem floatArithmetic : Obligations.FloatArithmetic := by
  refine ⟨fpArith, fun op m a b => ?_, fun frd frs1 frs2 rm s m hm =>
    ⟨.of_fpBinary hm rfl, .of_fpBinary hm rfl, .of_fpBinary hm rfl, .of_fpBinary hm rfl⟩⟩
  obtain ⟨r, nx, hr, hfl⟩ := fpArith_shape op m a b
  obtain ⟨hnv, hdz, hof, huf⟩ :=
    packFlags_bits false (decide (op = 3) && isZero b) (isInfinite (nanRule a b r)) (isDenormal (nanRule a b r)) nx
  rw [hr, hfl, arithFlags, hnv, hdz, hof, huf, Bool.and_eq_true, decide_eq_true_eq, isZero_iff]
  exact ⟨isNaN_nanRule, Iff.rfl, Iff.rfl, Iff.rfl, rfl⟩

/-! ## Minimum and maximum -/

/-- Settles O35: the model picks by the order key, which orders patterns by their value. -/
theorem floatMinMax : Obligations.FloatMinMax := by
  refine ⟨fun a b => (fpMin a b, Config.fpMinFlags a b), fun a b => (fpMax a b, Config.fpMaxFlags a b),
    fun a b ha hb hlt => ?_, fun _ _ _ _ => ⟨.of_finishF rfl, .of_finishF rfl⟩⟩
  have hless : fpLess a b = true := fpLess_iff.2 ⟨⟨ha, hb⟩, hlt⟩
  have hmore : ¬fpLess b a = true := fun h => lt_asymm hlt (fpLess_iff.1 h).2
  exact ⟨if_pos hless, (if_neg hmore).trans (if_pos hless), (if_neg hmore).trans (if_pos hless), if_pos hless⟩

/-! ## Square root -/

/-- Settles O36: the flags are tests of the operand, and an exact root is the one the model finds. -/
theorem floatSquareRoot : Obligations.FloatSquareRoot := by
  refine ⟨fpSqrt, fun m a => ⟨fun hzero => ?_, fun hn hlt => ?_, fun x y hx ha hy r hr => ?_⟩,
    fun _ _ _ _ _ hm => .of_fpUnary hm rfl⟩
  · exact (packFlags_bits _ _ _ _ _).2.1.trans (isZero_iff.2 hzero)
  · have hneg := isNegative_of_fpValue hn hlt
    have hsign : a.msb = true := by
      simp only [isNegative, Bool.and_eq_true] at hneg
      exact hneg.1.1
    exact (packFlags_bits _ _ _ _ _).1.trans (by rw [hsign, hneg]; rfl)
  · exact fpSqrt_of_root (fpIsRoot_of_fpValue hx ha hy hr) m

/-! ## Comparisons -/

/-- A comparison row puts one into its destination exactly where its condition holds. -/
theorem RunsX.of_fpCompare {f3 : BitVec 3} {c : Tetra → Tetra → Bool} {cond : Prop} [Decidable cond] (hw : Writable rd s)
    (hd : decodeFloatS (packF 20 frs2 frs1 f3 rd) = .ok i) (he : exec i s = fpCompare c rd frs1 frs2 s)
    (hc : c (s.fsingle frs1) (s.fsingle frs2) = true ↔ cond) :
    RunsX (packF 20 frs2 frs1 f3 rd) i s rd (if cond then 1 else 0) :=
  .of_finishX hw ((decode_float ..).trans hd) (he.trans (by rw [fpCompare]; simp only [hc]))

/-- Settles O38: each condition is a relation of the values of two patterns that are no NaN. -/
theorem floatCompares : Obligations.FloatCompares := by
  intro rd frs1 frs2 s hw a b ordered
  refine ⟨?feq, ?flt, ?fle⟩
  case feq => exact .of_fpCompare hw (by simp [decodeFloatS]) rfl fpEqual_iff
  case flt => exact .of_fpCompare hw (by simp [decodeFloatS]) rfl fpLess_iff
  case fle => exact .of_fpCompare hw (by simp [decodeFloatS]) rfl fpLessEqual_iff

/-! ## Conversions -/

theorem low32_ofInt (z : Int) : (BitVec.ofInt 64 z).extractLsb' 0 32 = BitVec.ofInt 32 z := by
  apply BitVec.eq_of_toNat_eq
  rw [BitVec.extractLsb'_toNat, BitVec.toNat_ofInt, BitVec.toNat_ofInt, Nat.shiftRight_zero]
  omega

theorem toInt_ofInt_of_range {n : Nat} (h1 : -2 ^ n ≤ z) (h2 : z < 2 ^ n) : (BitVec.ofInt (n + 1) z).toInt = z := by
  rw [BitVec.toInt_ofInt]
  have hpow : (2 : Int) ^ n * 2 = ((2 ^ (n + 1) : Nat) : Int) := by push_cast; ring
  rw [Int.bmod_eq_of_le] <;> omega

/-- A signed 32-bit integer in a register is the sign extension of its low half. -/
theorem ofInt64_signed (h1 : -2 ^ 31 ≤ z) (h2 : z < 2 ^ 31) : BitVec.ofInt 64 z = sext64 (BitVec.ofInt 32 z) := by
  apply BitVec.eq_of_toInt_eq
  rw [sext64, BitVec.toInt_signExtend_of_le (by decide), toInt_ofInt_of_range h1 h2]
  exact toInt_ofInt_of_range (n := 63) (by omega) (by omega)

theorem toNat_ofInt_of_range {n : Nat} (h1 : 0 ≤ z) (h2 : z < 2 ^ n) : ((BitVec.ofInt n z).toNat : Int) = z := by
  have hpow : ((2 ^ n : Nat) : Int) = 2 ^ n := by push_cast; rfl
  rw [BitVec.toNat_ofInt, Int.toNat_of_nonneg (Int.emod_nonneg _ (by positivity)), hpow]
  exact Int.emod_eq_of_lt h1 h2

/-- An unsigned 32-bit integer in a register is the zero extension of its low half. -/
theorem ofInt64_unsigned (h1 : 0 ≤ z) (h2 : z < 2 ^ 32) : BitVec.ofInt 64 z = zext64 (BitVec.ofInt 32 z) := by
  have h64 := toNat_ofInt_of_range (n := 64) h1 (by omega)
  have h32 := toNat_ofInt_of_range (n := 32) h1 h2
  apply BitVec.eq_of_toNat_eq
  rw [zext64, BitVec.toNat_setWidth]
  omega

/-- FCVT.S.W of an integer that some pattern's value is (43_floating_point.md R270). -/
theorem fcvtSW_of_integer (h : fpIsInteger p z = true) (h1 : -2 ^ 31 ≤ z) (h2 : z < 2 ^ 31) :
    fpIsInteger (fcvtSW m (BitVec.ofInt 64 z)) z = true := by
  rw [fcvtSW, low32_ofInt, if_pos (ofInt64_signed h1 h2), toInt_ofInt_of_range h1 h2]
  exact heldPattern_of_integer h _

/-- FCVT.S.WU of an integer that some pattern's value is (43_floating_point.md R271). -/
theorem fcvtSWU_of_integer (h : fpIsInteger p z = true) (h1 : 0 ≤ z) (h2 : z < 2 ^ 32) :
    fpIsInteger (fcvtSWU m (BitVec.ofInt 64 z)) z = true := by
  rw [fcvtSWU, low32_ofInt, if_pos (ofInt64_unsigned h1 h2), toNat_ofInt_of_range h1 h2]
  exact heldPattern_of_integer h _

/-- A conversion to an integer register puts the value there and accrues the flags. -/
theorem fpToInteger_next {value : RoundingMode → Tetra → Word} {flags : RoundingMode → Tetra → BitVec 5}
    (hm : roundingMode rm s = .ok m) (hw : Writable rd s) (he : exec i s = fpToInteger value flags rd frs1 rm s) :
    ∃ t, exec i s = .next t ∧ t.pc = s.pc + 4 ∧ WroteX rd (value m (s.fsingle frs1)) s t ∧ FloatSame s t ∧
      t.fflags = s.fflags ||| flags m (s.fsingle frs1) ∧ ControlSame s t ∧ MemorySame s t := by
  obtain ⟨t, ht, h⟩ := finishX_drawn (value m (s.fsingle frs1)) (s.fflags ||| flags m (s.fsingle frs1)) s.draws hw
  exact ⟨t, (exec_of_roundingMode hm he).trans ht, h⟩

theorem YieldsF.of_fpFromInteger {value : RoundingMode → Word → Tetra} {flags : RoundingMode → Word → BitVec 5} {rs1 : Reg}
    {a : Word} (hm : roundingMode rm s = .ok m) (ha : readX .rs1 rs1 s = .ok a)
    (he : exec i s = fpFromInteger value flags frd rs1 rm s) : YieldsF i s frd (value m a) (flags m a) :=
  .of_finishF ((exec_of_roundingMode hm he).trans (by rw [ha, orFault_ok]))

/-- Settles O39: the model's conversions, which are held to the value of the pattern wherever that is an integer in range. -/
theorem floatConversions : Obligations.FloatConversions := by
  refine ⟨fun m p => (fcvtWS m p, Config.fcvtWSFlags m p), fun m p => (fcvtWUS m p, Config.fcvtWUSFlags m p),
    fun m a => (fcvtSW m a, Config.fcvtSWFlags m a), fun m a => (fcvtSWU m a, Config.fcvtSWUFlags m a), Config.fclass,
    fun m p z hp => ?_, fun rd frs1 rm s m hm hw =>
      ⟨fpToInteger_next (value := fcvtWS) (flags := Config.fcvtWSFlags) hm hw rfl,
        fpToInteger_next (value := fcvtWUS) (flags := Config.fcvtWUSFlags) hm hw rfl⟩,
    fun frd rs1 rm s m a hm ha =>
      ⟨.of_fpFromInteger (value := fcvtSW) (flags := Config.fcvtSWFlags) hm ha rfl,
        .of_fpFromInteger (value := fcvtSWU) (flags := Config.fcvtSWUFlags) hm ha rfl⟩,
    fun rd frs1 s hw => .of_finishX rfl hw⟩
  have hint := fpIsInteger_iff_fpValue.2 hp
  exact ⟨fun h1 h2 => ⟨heldInteger_of_integer hint h1 (Int.le_sub_one_of_lt h2) _,
      fpIsInteger_iff_fpValue.1 (fcvtSW_of_integer hint h1 h2)⟩,
    fun h1 h2 => ⟨heldInteger_of_integer hint h1 (Int.le_sub_one_of_lt h2) _,
      fpIsInteger_iff_fpValue.1 (fcvtSWU_of_integer hint h1 h2)⟩⟩

/-! ## Moves -/

/-- Settles O40: the drawn upper half is the one FMV.X.S leaves open; FMV.S.X is a move of the low half. -/
theorem floatMoves : Obligations.FloatMoves := by
  refine ⟨fun rd frs1 s hw => ⟨(decode_float ..).trans (by simp [decodeFloatS, listedIf]), s.drawn.extractLsb' 0 32, ?_⟩,
    fun frd rs1 s a ha => .of_moveF (by simp [decodeFloatS, listedIf]) ?_⟩
  · rw [← joinBits_append]
    exact finishX_drawn _ s.fflags (s.draws + 1) hw
  · have he : exec (.fmv_s_x frd rs1) s = orFault (readX .rs1 rs1 s) fun a => moveF frd (a.extractLsb' 0 32) s := rfl
    rw [he, ha, orFault_ok]

end Sys2Proof.Machine
end
